-- ==== Sys2Proof/Word.lean ====
section
/-! DEFINITION. The plain data types of the buzzer link codec: the byte, a row of four like things
(one per button), and the status of one button. -/

namespace Sys2Proof

/-- `u8`, an unsigned 8-bit value (rule R10); bit 7 has weight 0x80 (rule R9). -/
abbrev Byte := BitVec 8

/-- Exactly four values, one per button, indexed 0..3 (rule R24: "always exactly 4 `ButtonStatus`
entries"; rule R22: "one 4-byte frame"). The length 4 is part of the type. -/
structure Four (α : Type) where
  b0 : α
  b1 : α
  b2 : α
  b3 : α
  deriving DecidableEq, Repr, Inhabited

/-- `ButtonState` (rule R26): exactly three values. No value stands for an invalid wire code. -/
inductive ButtonState where
  | disabled
  | enabled
  | answered
  deriving DecidableEq, Repr, Inhabited

/-- `ButtonStatus` (rule R25): three independent fields. -/
structure ButtonStatus where
  connected : Bool
  hasAnswered : Bool
  state : ButtonState
  deriving DecidableEq, Repr, Inhabited

end Sys2Proof
end

