-- ==== Sys2Proof/Config.lean ====
section
/-! DEFINITION. The parameters: those rule R7 fixes are numbers, those rule R8 leaves open are constants
without a body, and the draws of the spec (rule R10: "a free choice ... under no law") are free values. -/

namespace Sys2Proof

/-- Which tags stand for a failure value: uninterpreted, for rule R8's type parameter `IoErr`. Log entry 1. -/
opaque Config.isIoErrTag : Nat → Bool

/-- `IoErr`, the opaque value an I/O failure carries (rules R8, R180; decision D35): an uninterpreted type of which
only one value is sure to exist. No operation reads the tag. Log entry 1. -/
structure IoErr where
  tag : Nat
  exists_in_type : tag = 0 ∨ Config.isIoErrTag tag = true
  deriving DecidableEq, Repr

/-- The provider's answer to one `TxWrite` (rule R160): it took everything, or it failed with `e` after
`sent` bytes had reached the wire (any prefix, decision D11; a count above the length means all).
Log entry 11. -/
inductive TxAnswer where
  | ok
  | ioError (e : IoErr) (sent : Nat)
  deriving DecidableEq, Repr, Inhabited

namespace Config

/-- `NUM_BUTTONS` (rule R7). -/
def NUM_BUTTONS : Nat := 4

/-- `STATUS_FRAME_LEN` (rule R7): one byte per button. -/
def STATUS_FRAME_LEN : Nat := 4

/-- `START_DELIM` (rule R7): `'S'`. -/
def START_DELIM : Byte := 0x53#8

/-- `STOP_DELIM` (rule R7): `'\n'`. -/
def STOP_DELIM : Byte := 0x0A#8

/-- `READ_MAX - 1`, uninterpreted: rule R8 leaves `READ_MAX` open but for `READ_MAX ≥ 1`. Log entry 2. -/
opaque readMaxLessOne : Nat

/-- `READ_MAX` (rule R8): a natural number ≥ 1 that nothing else constrains. -/
def READ_MAX : Nat := readMaxLessOne + 1

/-- The default of the configuration Boolean `REFRESH_REPORTS_IDENTICAL` (rule R8, decision D8). The setting of a
machine is the field of that name of its State. Log entry 3. -/
def REFRESH_REPORTS_IDENTICAL_DEFAULT : Bool := true

/-- The draw `INIT_STATUS` (rule R8, decision D7), one free value for each block reset. Log entry 4. -/
opaque initStatus : Nat → Four ButtonStatus

/-- The draw of `STOP_BUDGET` from `{0 .. READ_MAX}` (rule R107, decision D13). Log entry 4. -/
opaque stopBudget : Nat → Fin (READ_MAX + 1)

/-- The provider's answer to a `TxWrite` for which the environment's script holds none (rule R160).
Log entry 4. -/
opaque txAnswer : Nat → TxAnswer

end Config

end Sys2Proof
end

