-- ==== Sys2Proof/Syntax.lean ====
section
/-! DEFINITION. The operations of spec/opcode_table.json, one constructor a row, and what the ports
carry: events on the RX port, requests on the host port, commands on the TX port. -/

namespace Sys2Proof

/-- The instruction set (rule R20: "Its "instructions" are the operations of opcode_table.json"). -/
inductive Instr where
  /-- RX_START (rule R101): the start delimiter 0x53. -/
  | rxStart
  /-- RX_IDLE_DROP (rule R102): a byte outside a frame. -/
  | rxIdleDrop (b : Byte)
  /-- RX_STOP_EMIT (rule R103): the stop delimiter 0x0A while recording. -/
  | rxStopEmit
  /-- RX_DATA_APPEND (rule R104): a payload byte. -/
  | rxDataAppend (b : Byte)
  /-- RX_FAIL (rule R106): an unrecoverable read failure. -/
  | rxFail (e : IoErr)
  /-- RX_HALT (rule R108): the RX agent exits on a stop request. -/
  | rxHalt
  /-- STOP (rule R107). -/
  | stop
  /-- RX_STATUS (rule R109). -/
  | rxStatus
  /-- DECODE (rule R131) of a byte sequence of any length. -/
  | decode (frame : List Byte)
  /-- REFRESH (rule R132). -/
  | refresh
  /-- SNAPSHOT (rule R133). -/
  | snapshot
  /-- ENABLE (rule R161). -/
  | enable
  /-- RESET (rule R162): the command to the remote device, not the block's own reset. -/
  | reset
  /-- DISABLE (rule R163). -/
  | disable
  /-- SET_ANSWERED (rule R164), both operands any `u8`. -/
  | setAnswered (idx status : Byte)
  /-- BLOCK_RESET (rule R200). -/
  | blockReset
  deriving DecidableEq, Repr

/-- An event of the RX port (rule R40). -/
inductive RxEvent where
  /-- `RxByte(b)`: one byte the provider's read returned. -/
  | byte (b : Byte)
  /-- `RxFail(e)`: the provider's read failed. -/
  | fail (e : IoErr)
  deriving DecidableEq, Repr

/-- An operation request of the host port (rule R42). -/
inductive HostReq where
  | decode (frame : List Byte)
  | refresh
  | snapshot
  | enable
  | reset
  | disable
  | setAnswered (idx status : Byte)
  | stop
  | rxStatus
  deriving DecidableEq, Repr

/-- A command of the encoder (rule R167). -/
inductive Command where
  | enable
  | reset
  | disable
  | setAnswered (idx status : Byte)
  deriving DecidableEq, Repr

end Sys2Proof
end

