-- ==== Sys2Proof/WellFormed.lean ====
section
/-! DEFINITION. Which operations of the table exist: the byte conditions of its RX rows. -/

namespace Sys2Proof

/-- The byte of an RX_IDLE_DROP is not 0x53 and that of an RX_DATA_APPEND is neither 0x53 nor 0x0A
(rules R102, R104; opcode_table.json, "condition"). Every operand of every other operation is admitted:
SET_ANSWERED with an index above 3 is a request that the operation itself refuses (rule R164), and
DECODE takes a sequence of any length (rule R131). -/
def Instr.wellFormed : Instr → Bool
  | .rxIdleDrop b => b != Config.START_DELIM
  | .rxDataAppend b => b != Config.START_DELIM && b != Config.STOP_DELIM
  | .rxStart | .rxStopEmit | .rxFail _ | .rxHalt | .stop | .rxStatus | .decode _ | .refresh
  | .snapshot | .enable | .reset | .disable | .setAnswered _ _ | .blockReset => true

end Sys2Proof
end

