-- ==== Sys2Proof/Decode.lean ====
section
/-! DEFINITION. From bytes and port transactions to operations, and back: the RX byte table (rule R70), the
command opcode map (rules R75 to R79), the splitter of a TX byte stream (rule R83), and the encoder. -/

namespace Sys2Proof

/-- The three classes of an inbound byte (format RXB, rule R70). -/
inductive RxClass where
  | start
  | stop
  | data
  deriving DecidableEq, Repr

/-- The class of an inbound byte by its value (rule R70). -/
def rxClass (b : Byte) : RxClass :=
  if b = Config.START_DELIM then .start
  else if b = Config.STOP_DELIM then .stop
  else .data

/-- The RX operation that `REC` and an inbound byte select (rule R70's table, rule R100's dispatch). -/
def decodeRxByte (recording : Bool) (b : Byte) : Instr :=
  match rxClass b, recording with
  | .start, _ => .rxStart
  | .stop, false => .rxIdleDrop b
  | .stop, true => .rxStopEmit
  | .data, false => .rxIdleDrop b
  | .data, true => .rxDataAppend b

/-- Why bytes are no operation. Log entry 13. -/
inductive DecodeReject where
  /-- There is no byte to read. -/
  | noByte
  /-- A command opcode no source defines: 0x00 or 0x05..0xFF (rule R79). -/
  | undefinedOpcode (b : Byte)
  /-- A SET_ANSWERED opcode with fewer than two bytes after it (rule R77). -/
  | truncatedCommand
  /-- Byte 1 of a SET_ANSWERED is above 3, which no emitted command has (rule R78). -/
  | buttonIndexOutOfRange (idx : Byte)
  deriving DecidableEq, Repr

/-- Reads one command off the front of a TX byte sequence (rules R75 to R79). What the block never sends as a whole
command, a first part that a failed write left on the wire among it (rules R160, R209), is rejected or read as the
command its bytes happen to spell: the model's choice, log entries 13 and 15. -/
def decodeTx : List Byte → Except DecodeReject (Command × List Byte)
  | [] => .error .noByte
  | op :: rest =>
    if op = 0x01#8 then .ok (.enable, rest)
    else if op = 0x02#8 then .ok (.reset, rest)
    else if op = 0x03#8 then .ok (.disable, rest)
    else if op = 0x04#8 then
      match rest with
      | idx :: status :: rest =>
        if idx.toNat < Config.NUM_BUTTONS then .ok (.setAnswered idx status, rest)
        else .error (.buttonIndexOutOfRange idx)
      | _ => .error .truncatedCommand
    else .error (.undefinedOpcode op)

/-- The send operation of a command (rule R167). -/
def Command.instr : Command → Instr
  | .enable => .enable
  | .reset => .reset
  | .disable => .disable
  | .setAnswered idx status => .setAnswered idx status

/-- Where bytes are read: on the RX port, with the value of `REC` that selects the operation (rule R70), or
on the TX port (rule R75). -/
inductive PortSel where
  | rx (recording : Bool)
  | tx
  deriving DecidableEq, Repr

/-- The decoder: one operation off the front of the bytes of a port, with the bytes after it. Total; it
rejects by name. -/
def decode : PortSel → List Byte → Except DecodeReject (Instr × List Byte)
  | .rx _, [] => .error .noByte
  | .rx recording, b :: rest => .ok (decodeRxByte recording b, rest)
  | .tx, bytes =>
    match decodeTx bytes with
    | .ok (c, rest) => .ok (c.instr, rest)
    | .error why => .error why

/-- Splits a TX byte sequence into commands, with at most `fuel` of them (rule R83). -/
def splitCommandsWithin : Nat → List Byte → Except DecodeReject (List Command)
  | _, [] => .ok []
  | 0, _ :: _ => .error .truncatedCommand
  | fuel + 1, b :: bs =>
    match decodeTx (b :: bs) with
    | .error why => .error why
    | .ok (c, rest) =>
      match splitCommandsWithin fuel rest with
      | .error why => .error why
      | .ok cs => .ok (c :: cs)

/-- The commands of a TX byte stream read from its first byte (rule R83: such a reader "can therefore split
it into commands"). A stream with a byte sequence that is no command is rejected whole (log entry 15). Each
command takes at least one byte, so the length is fuel enough. -/
def splitCommands (bytes : List Byte) : Except DecodeReject (List Command) :=
  splitCommandsWithin bytes.length bytes

/-- The operation an RX port event selects (rule R100). -/
def rxEventInstr (recording : Bool) : RxEvent → Instr
  | .byte b => decodeRxByte recording b
  | .fail e => .rxFail e

/-- The operation a host port request starts (rule R42). -/
def hostReqInstr : HostReq → Instr
  | .decode frame => .decode frame
  | .refresh => .refresh
  | .snapshot => .snapshot
  | .enable => .enable
  | .reset => .reset
  | .disable => .disable
  | .setAnswered idx status => .setAnswered idx status
  | .stop => .stop
  | .rxStatus => .rxStatus

/-- `Encode(cmd)` (rule R167): the byte sequence of a command, or none where the index is above 3
(rule R78). The unsigned test is the encoder's only comparison (rule R168). -/
def encodeCommand : Command → Option (List Byte)
  | .enable => some [0x01#8]
  | .reset => some [0x02#8]
  | .disable => some [0x03#8]
  | .setAnswered idx status =>
    if idx.toNat > 3 then none else some [0x04#8, idx, status]

/-- The bytes an operation has on its port (rule R85: "the bytes it puts on the RX port ... or the bytes the
block puts on the TX port"), or none: RX_FAIL and RX_HALT carry no byte, the other host operations and
block reset have no wire encoding (rule R84), and a refused SET_ANSWERED puts nothing on the wire. -/
def encode : Instr → Option (List Byte)
  | .rxStart => some [0x53#8]
  | .rxIdleDrop b => some [b]
  | .rxStopEmit => some [0x0A#8]
  | .rxDataAppend b => some [b]
  | .enable => encodeCommand .enable
  | .reset => encodeCommand .reset
  | .disable => encodeCommand .disable
  | .setAnswered idx status => encodeCommand (.setAnswered idx status)
  | .rxFail _ | .rxHalt | .stop | .rxStatus | .decode _ | .refresh | .snapshot | .blockReset => none

/-- Where an operation's bytes are read as that operation: the port and the condition on `REC` of its row of
opcode_table.json. -/
def readWhere : PortSel → Instr → Bool
  | .rx _, .rxStart => true
  | .rx recording, .rxIdleDrop _ => !recording
  | .rx recording, .rxStopEmit => recording
  | .rx recording, .rxDataAppend _ => recording
  | .tx, .enable | .tx, .reset | .tx, .disable | .tx, .setAnswered _ _ => true
  | _, _ => false

/-- The bytes of a table word: byte `k` of an operation is bits `8k+7 .. 8k` of the word; bits from `nbits` up
are 0. The longest operation has three bytes (rule R77). -/
def tableWordBytes (nbits w : Nat) : List Byte :=
  let v := w % 2 ^ nbits
  [BitVec.ofNat 8 v, BitVec.ofNat 8 (v / 256), BitVec.ofNat 8 (v / 65536)]

/-- The operation of a table word. One number names bytes of two ports, so a word whose first byte is a command
opcode (0x01 to 0x04) is read on the TX port and every other word on the RX port with `REC = 1`, where
0x53, 0x0A and a payload byte each select the operation of their own row. A row without bits has no word.
Log entry 5. -/
def decodeTableWord (nbits w : Nat) : Option Instr :=
  if nbits = 0 then none
  else
    let bytes := tableWordBytes nbits w
    match decodeTx bytes with
    | .ok (c, _) => some c.instr
    | .error (.undefinedOpcode _) =>
      match decode (.rx true) bytes with
      | .ok (i, _) => some i
      | .error _ => none
    | .error _ => none

end Sys2Proof
end

