-- ==== Sys2Proof/Machine/State.lean ====
section
/-! DEFINITION. The state of the block and of its ports, as plain data, the reasons a step can stop, and the
state after reset. -/

namespace Sys2Proof.Machine

/-- The error taxonomy (rule R180). -/
inductive BlockError where
  /-- DECODE of a sequence whose length is not 4 (rule R181). -/
  | wrongLength
  /-- A state code outside {1, 2, 3}, with the 4-bit code (rule R182). -/
  | invalidState (code : BitVec 4)
  /-- SET_ANSWERED with an index above 3 (rule R183). -/
  | invalidButtonIndex
  /-- The provider's read failed (rule R184). It is never a host result: RX_STATUS shows it. -/
  | readIoError (e : IoErr)
  /-- The provider's write failed (rule R185). -/
  | writeIoError (e : IoErr)
  deriving DecidableEq, Repr

/-- The result an operation hands back to the host agent (rule R42). -/
inductive HostResult where
  /-- DECODE's `Ok([ButtonStatus; 4])`. -/
  | decoded (v : Four ButtonStatus)
  /-- REFRESH's `Empty`. -/
  | empty
  /-- REFRESH's `Applied(changed)`. -/
  | applied (changed : Bool)
  /-- SNAPSHOT's `(ST_VALID, ST)`. -/
  | snapshot (valid : Bool) (v : Four ButtonStatus)
  /-- `Ok`, of a send operation or of STOP. -/
  | ok
  /-- RX_STATUS's `(RX_DEAD, RX_ERR, RX_STOPPED)`. -/
  | rxStatus (dead : Bool) (err : Option IoErr) (stopped : Bool)
  /-- The operation ended with an error (rule R187: "A host operation's error is the operation's result"). -/
  | raised (e : BlockError)
  deriving DecidableEq, Repr

/-- Which agent the next step belongs to (rules R6, R58): the RX agent at its port, the RX agent's internal
step, the host agent at its port, or the reset input. -/
inductive Turn where
  | rx
  | halt
  | host
  | blockReset
  deriving DecidableEq, Repr

/-- The block's ten state elements (rule R36), in the spec's names; the configuration Boolean; then the ports and the
model's own bookkeeping: what waits at the input ports, the order the agents move in, what has left at the outputs. -/
structure State where
  /-- The recording flag (rule R21). -/
  REC : Bool
  /-- The frame buffer, oldest byte first, without a capacity (rule R23). -/
  BUF : List Byte
  /-- The one-slot hand-off channel (rule R22). -/
  MBOX : Option (Four Byte)
  /-- The status register (rule R24). -/
  ST : Four ButtonStatus
  /-- `ST` holds a decoded frame (rule R27). -/
  ST_VALID : Bool
  /-- The RX agent died of a read failure (rule R28). -/
  RX_DEAD : Bool
  /-- The failure it died of (rule R28). -/
  RX_ERR : Option IoErr
  /-- A stop was requested (rule R29). -/
  STOP_REQ : Bool
  /-- How many bytes the RX agent may still take after the stop request (rule R29). -/
  STOP_BUDGET : Nat
  /-- The RX agent has exited on a stop request (rule R30). -/
  RX_STOPPED : Bool
  /-- The configuration Boolean (rule R8): whether REFRESH reports "changed" for an identical value. No operation
  writes it. Log entry 3. -/
  REFRESH_REPORTS_IDENTICAL : Bool
  /-- The RX port (rule R40): the events the RX agent has not consumed, in stream order. -/
  rxPort : List RxEvent
  /-- The host port (rule R42): the requests not yet served, in the order the host makes them. -/
  hostPort : List HostReq
  /-- The interleaving of a run (rule R58), next turn first. Log entry 6. -/
  schedule : List Turn
  /-- The answers the provider will give to `TxWrite`s (rule R41), next first; past its end each answer is a
  free value. Log entry 7. -/
  txAnswers : List TxAnswer
  /-- The bytes the block has put on the TX wire (rule R41), first byte first. -/
  txWire : List Byte
  /-- The results handed back to the host agent (rule R42), first result first. Log entry 8. -/
  hostOut : List HostResult
  /-- How many free values have been drawn: the argument of the next one (rule R10). Log entry 4. -/
  draws : Nat
  deriving DecidableEq, Repr

/-- The reasons a step of the RX agent does not exist: 93_implementation_defined.md (I20, I21) calls them
`stuck`. `exec` raises them on an RX operation that is not enabled; `step` never does, since it gives a turn
only to an enabled operation. Safe: the machine stops where the hardware has no such step.
Log entry 10. -/
inductive Fault where
  /-- Raised by every RX operation while `RX_DEAD = 1` or `RX_STOPPED = 1` (rules R31, R100). Safe. -/
  | rxAgentNotLive
  /-- Raised by the four byte operations while `STOP_REQ = 1` and `STOP_BUDGET = 0` (rule R100). Safe. -/
  | stopBudgetSpent
  /-- Raised by a byte operation that `REC` and its byte do not select (rule R70's table). Safe. -/
  | rxOperationNotSelected
  /-- Raised by RX_HALT while `STOP_REQ = 0` (rule R108). Safe. -/
  | noStopRequest
  deriving DecidableEq, Repr

/-- The reasons the model gives an operation no meaning. -/
inductive Refusal where
  /-- Raised by `exec` for a row without a meaning; no arm does. Safe. -/
  | notModelled (mnemonic : String)
  deriving DecidableEq, Repr

/-- The state right after block reset (rules R36, R200), with nothing waiting at any port and nothing sent.
`ST` is the draw `INIT_STATUS`, and the configuration Boolean has its default. Log entries 3, 4 and 9. -/
def State.reset : State where
  REC := false
  BUF := []
  MBOX := none
  ST := Config.initStatus 0
  ST_VALID := false
  RX_DEAD := false
  RX_ERR := none
  STOP_REQ := false
  STOP_BUDGET := 0
  RX_STOPPED := false
  REFRESH_REPORTS_IDENTICAL := Config.REFRESH_REPORTS_IDENTICAL_DEFAULT
  rxPort := []
  hostPort := []
  schedule := []
  txAnswers := []
  txWire := []
  hostOut := []
  draws := 1

end Sys2Proof.Machine
end

