-- ==== Sys2Proof/Machine/Flags.lean ====
section
/-! DEFINITION. The conditions read from the block's flags: when the RX agent is live and which of its
operations are enabled. -/

namespace Sys2Proof.Machine

/-- The RX agent is live (rule R31). -/
def State.rxLive (s : State) : Bool := !s.RX_DEAD && !s.RX_STOPPED

/-- No byte may be taken any more: a stop was requested and its budget is spent (rule R100). -/
def State.budgetSpent (s : State) : Bool := s.STOP_REQ && s.STOP_BUDGET == 0

/-- A byte operation may run (rule R100): the agent is live, and no stop was requested or budget is left. -/
def State.byteEnabled (s : State) : Bool := s.rxLive && !s.budgetSpent

/-- RX_HALT is enabled (rule R108), whatever the budget. -/
def State.haltEnabled (s : State) : Bool := s.rxLive && s.STOP_REQ

/-- The RX agent may take this event of its port (rule R100); a failure is enabled even after STOP
(rule R106). -/
def State.eventEnabled (s : State) : RxEvent → Bool
  | .byte _ => s.byteEnabled
  | .fail _ => s.rxLive

/-- The condition of an operation's row (rule R11's "enabling condition"). A host operation and block reset are
enabled in every state (rules R200, R205). -/
def enabled (i : Instr) (s : State) : Bool :=
  match i with
  | .rxStart => s.byteEnabled
  | .rxIdleDrop b => s.byteEnabled && decodeRxByte s.REC b == .rxIdleDrop b
  | .rxStopEmit => s.byteEnabled && s.REC
  | .rxDataAppend b => s.byteEnabled && decodeRxByte s.REC b == .rxDataAppend b
  | .rxFail _ => s.rxLive
  | .rxHalt => s.haltEnabled
  | .stop | .rxStatus | .decode _ | .refresh | .snapshot | .enable | .reset | .disable
  | .setAnswered _ _ | .blockReset => true

end Sys2Proof.Machine
end

