-- ==== Sys2Proof/Machine/Operands.lean ====
section
/-! DEFINITION. The operand forms: the status byte and the status frame (formats SB and SF), the four entries of
a register, the bytes of a command, the packed view of the status register, and the error codes. -/

namespace Sys2Proof

/-- Entry `i` of four (rule R10's `ST[i]`). -/
def Four.get {α : Type} (v : Four α) (i : Fin 4) : α :=
  match i with
  | 0 => v.b0
  | 1 => v.b1
  | 2 => v.b2
  | 3 => v.b3

/-- The four entries in index order. -/
def Four.toList {α : Type} (v : Four α) : List α := [v.b0, v.b1, v.b2, v.b3]

/-- The four entries of a sequence of length 4: entry `i` is element `i`, counted from 0 (rule R51). -/
def Four.ofList? {α : Type} : List α → Option (Four α)
  | [a, b, c, d] => some ⟨a, b, c, d⟩
  | _ => none

namespace Machine

/-- The button state of a state code (rules R26, R73). -/
def stateOfCode (c : BitVec 4) : Option ButtonState :=
  if c = 1#4 then some .disabled
  else if c = 2#4 then some .enabled
  else if c = 3#4 then some .answered
  else none

/-- `DecodeByte` (rule R130): `C` is bit 7, `A` is bit 6, the state code is bits 3..0, and bits 5 and 4 are not
read (rule R81). -/
def decodeByte (b : Byte) : Except BlockError ButtonStatus :=
  match stateOfCode (b.extractLsb' 0 4) with
  | some st => .ok { connected := b.getLsbD 7, hasAnswered := b.getLsbD 6, state := st }
  | none => .error (.invalidState (b.extractLsb' 0 4))

/-- The four lanes of DECODE in index order: the first error ends it (rule R131). -/
def decodeFour (f : Four Byte) : Except BlockError (Four ButtonStatus) :=
  match decodeByte f.b0 with
  | .error e => .error e
  | .ok r0 =>
    match decodeByte f.b1 with
    | .error e => .error e
    | .ok r1 =>
      match decodeByte f.b2 with
      | .error e => .error e
      | .ok r2 =>
        match decodeByte f.b3 with
        | .error e => .error e
        | .ok r3 => .ok ⟨r0, r1, r2, r3⟩

/-- `DECODE(F)` (rule R131): the length first, then the bytes. -/
def decodeFrame (frame : List Byte) : Except BlockError (Four ButtonStatus) :=
  match Four.ofList? frame with
  | none => .error .wrongLength
  | some f => decodeFour f

/-- The wire code of a button state (rule R26). -/
def codeOfState : ButtonState → BitVec 4
  | .disabled => 1#4
  | .enabled => 2#4
  | .answered => 3#4

/-- One button in the packed view (rule R86): `C A 0 0 S S S S`. -/
def packByte (v : ButtonStatus) : Byte :=
  BitVec.ofBool v.connected ++ (BitVec.ofBool v.hasAnswered ++ (0#2 ++ codeOfState v.state))

/-- The packed 32-bit view of the status register (rule R86): button `i` at bits `8i+7 .. 8i`. -/
def packStatus (v : Four ButtonStatus) : BitVec 32 :=
  packByte v.b3 ++ (packByte v.b2 ++ (packByte v.b1 ++ packByte v.b0))

/-- The numeric code of an error (rule R180, decision D15). -/
def BlockError.code : BlockError → Nat
  | .wrongLength => 1
  | .invalidState _ => 2
  | .invalidButtonIndex => 3
  | .readIoError _ => 4
  | .writeIoError _ => 5

/-- The code a host result reports: 0 is no error (rule R180). -/
def HostResult.code : HostResult → Nat
  | .raised e => e.code
  | .decoded _ | .empty | .applied _ | .snapshot _ _ | .ok | .rxStatus _ _ _ => 0

/-- The reader's error as the taxonomy has it (rules R180, R184): none, or the read failure in `RX_ERR`. -/
def State.readerError (s : State) : Option BlockError := s.RX_ERR.map .readIoError

end Machine

end Sys2Proof
end

