-- ==== Sys2Proof/Machine/Ops.lean ====
section
/-! DEFINITION. The named operations that the meanings share: handing back a result or an error, taking a byte,
emitting a frame, writing to the wire, drawing a free value. -/

namespace Sys2Proof.Machine

/-- Hands a result back to the host agent, in the same step (rule R42). -/
def answer (r : HostResult) (s : State) : State :=
  { s with hostOut := s.hostOut ++ [r] }

/-- `raise E` (rules R10, R187), the block's only form of exception: the operation ends with the error as its
result. No state is saved, no control moves, and no return from it exists (rule R189). -/
def raise (e : BlockError) (s : State) : State := answer (.raised e) s

/-- Taking a byte spends one unit of the stop budget while a stop is requested (rule R100). -/
def spendBudget (s : State) : State :=
  { s with STOP_BUDGET := if s.STOP_REQ then s.STOP_BUDGET - 1 else s.STOP_BUDGET }

/-- The push into the hand-off channel: it overwrites (rules R22, R105). -/
def push (f : Four Byte) (s : State) : State := { s with MBOX := some f }

/-- `Emit(F)` (rule R105): a frame of length 4 is pushed, any other is dropped in silence. -/
def emit (frame : List Byte) (s : State) : State :=
  match Four.ofList? frame with
  | some f => push f s
  | none => s

/-- One byte step of the RX agent (rule R100): it needs a live agent, a byte it may still take, and the selection
of this operation by `REC` and the byte. -/
def rxByteStep (selected : Bool) (effect : State → State) (s : State) :
    Host.Outcome State Fault Refusal :=
  if !s.rxLive then .fault .rxAgentNotLive
  else if s.budgetSpent then .fault .stopBudgetSpent
  else if !selected then .fault .rxOperationNotSelected
  else .next (effect (spendBudget s))

/-- The provider's answer to the next `TxWrite` (rule R160): the environment's, or else a free value. -/
def providerAnswer (s : State) : TxAnswer :=
  match s.txAnswers with
  | a :: _ => a
  | [] => Config.txAnswer s.draws

/-- The provider has answered: its answer is used up. -/
def useAnswer (s : State) : State :=
  match s.txAnswers with
  | _ :: rest => { s with txAnswers := rest }
  | [] => { s with draws := s.draws + 1 }

/-- What the wire carries of the bytes offered (rule R160): all of them, or on a failure some first part. -/
def carried (a : TxAnswer) (bytes : List Byte) : List Byte :=
  match a with
  | .ok => bytes
  | .ioError _ sent => bytes.take sent

/-- What the provider's answer is to the host (rules R160, R185): `Ok`, or the write failure raised. -/
def answerResult : TxAnswer → HostResult
  | .ok => .ok
  | .ioError e _ => .raised (.writeIoError e)

/-- `TxWrite(s)` as the last act of a send operation (rule R160): it writes to the wire and hands back the provider's
answer, and it reads and writes no state of the block. -/
def txWrite (bytes : List Byte) (s : State) : State :=
  answer (answerResult (providerAnswer s))
    { useAnswer s with txWire := s.txWire ++ carried (providerAnswer s) bytes }

/-- `TxWrite(Encode(cmd))` (rule R167): a refused index is raised before any byte is offered (rule R183). -/
def sendCommand (c : Command) (s : State) : State :=
  match encodeCommand c with
  | none => raise .invalidButtonIndex s
  | some bytes => txWrite bytes s

/-- The stop request with its drawn budget (rule R107). -/
def requestStop (s : State) : State :=
  { s with
    STOP_REQ := true
    STOP_BUDGET := (Config.stopBudget s.draws).val
    draws := s.draws + 1 }

/-- REFRESH on a frame taken from the channel (rule R132). -/
def applyFrame (f : Four Byte) (s : State) : State :=
  match decodeFour f with
  | .error e => raise e { s with MBOX := none }
  | .ok v =>
    answer (.applied (!s.ST_VALID || v != s.ST || s.REFRESH_REPORTS_IDENTICAL))
      { s with MBOX := none, ST := v, ST_VALID := true }

/-- The block's elements at their reset values (rules R36, R200); the ports and the wire are not the block's. -/
def resetBlock (s : State) : State :=
  { s with
    REC := false
    BUF := []
    MBOX := none
    ST := Config.initStatus s.draws
    ST_VALID := false
    RX_DEAD := false
    RX_ERR := none
    STOP_REQ := false
    STOP_BUDGET := 0
    RX_STOPPED := false
    draws := s.draws + 1 }

end Sys2Proof.Machine
end

