-- ==== Sys2Proof/Machine/BlockReset.lean ====
section
/-! DEFINITION. Block reset (70_reset_and_hazards.md). -/

namespace Sys2Proof.Machine

/-- BLOCK_RESET (rule R200): enabled in every state; the RX agent is live after it (rule R201). -/
def execBlockReset (s : State) : Host.Outcome State Fault Refusal :=
  .next (resetBlock s)

end Sys2Proof.Machine
end

