-- ==== Sys2Proof/Machine/CommandEncode.lean ====
section
/-! DEFINITION. The command family (42_command_encode.md): the four send operations. None reads or writes any
state of the RX side (rules R62, R165). -/

namespace Sys2Proof.Machine

/-- ENABLE (rule R161). -/
def execEnable (s : State) : Host.Outcome State Fault Refusal :=
  .next (sendCommand .enable s)

/-- RESET (rule R162), the command "Reset buttons" to the remote device. -/
def execReset (s : State) : Host.Outcome State Fault Refusal :=
  .next (sendCommand .reset s)

/-- DISABLE (rule R163). -/
def execDisable (s : State) : Host.Outcome State Fault Refusal :=
  .next (sendCommand .disable s)

/-- SET_ANSWERED (rule R164). -/
def execSetAnswered (idx status : Byte) (s : State) : Host.Outcome State Fault Refusal :=
  .next (sendCommand (.setAnswered idx status) s)

end Sys2Proof.Machine
end

