-- ==== Sys2Proof/Machine/RxFraming.lean ====
section
/-! DEFINITION. The RX family (40_rx_framing.md): the steps of the RX agent and the two host operations that
control and watch it. -/

namespace Sys2Proof.Machine

/-- RX_START (rule R101): whatever `REC` is, a frame begins; a partial frame is discarded. -/
def execRxStart (s : State) : Host.Outcome State Fault Refusal :=
  rxByteStep true (fun s => { s with REC := true, BUF := [] }) s

/-- RX_IDLE_DROP (rule R102): the byte is discarded. -/
def execRxIdleDrop (b : Byte) (s : State) : Host.Outcome State Fault Refusal :=
  rxByteStep (decodeRxByte s.REC b == .rxIdleDrop b) id s

/-- RX_STOP_EMIT (rule R103): the frame goes to the length filter in the same step. -/
def execRxStopEmit (s : State) : Host.Outcome State Fault Refusal :=
  rxByteStep s.REC (fun s => emit s.BUF { s with REC := false, BUF := [] }) s

/-- RX_DATA_APPEND (rule R104): the byte is appended unchanged. -/
def execRxDataAppend (b : Byte) (s : State) : Host.Outcome State Fault Refusal :=
  rxByteStep (decodeRxByte s.REC b == .rxDataAppend b) (fun s => { s with BUF := s.BUF ++ [b] }) s

/-- RX_FAIL (rule R106): the RX agent dies; the channel and the status register are not touched. -/
def execRxFail (e : IoErr) (s : State) : Host.Outcome State Fault Refusal :=
  if s.rxLive then .next { s with RX_DEAD := true, RX_ERR := some e }
  else .fault .rxAgentNotLive

/-- RX_HALT (rule R108): the RX agent exits on a stop request. -/
def execRxHalt (s : State) : Host.Outcome State Fault Refusal :=
  if !s.rxLive then .fault .rxAgentNotLive
  else if !s.STOP_REQ then .fault .noStopRequest
  else .next { s with RX_STOPPED := true }

/-- STOP (rule R107): without effect on an agent that is dead, stopped or already stopping. -/
def execStop (s : State) : Host.Outcome State Fault Refusal :=
  .next (answer .ok (if s.RX_DEAD || s.RX_STOPPED || s.STOP_REQ then s else requestStop s))

/-- RX_STATUS (rule R109). -/
def execRxStatus (s : State) : Host.Outcome State Fault Refusal :=
  .next (answer (.rxStatus s.RX_DEAD s.RX_ERR s.RX_STOPPED) s)

end Sys2Proof.Machine
end

