-- ==== Sys2Proof/Machine/StatusDecode.lean ====
section
/-! DEFINITION. The status family (41_status_decode.md): DECODE, REFRESH and SNAPSHOT. -/

namespace Sys2Proof.Machine

/-- DECODE (rule R131): it reads and writes no state of the block. -/
def execDecode (frame : List Byte) (s : State) : Host.Outcome State Fault Refusal :=
  match decodeFrame frame with
  | .ok v => .next (answer (.decoded v) s)
  | .error e => .next (raise e s)

/-- REFRESH (rule R132): `Empty`, or the frame is consumed and then applied whole or its error raised. -/
def execRefresh (s : State) : Host.Outcome State Fault Refusal :=
  match s.MBOX with
  | none => .next (answer .empty s)
  | some f => .next (applyFrame f s)

/-- SNAPSHOT (rule R133). -/
def execSnapshot (s : State) : Host.Outcome State Fault Refusal :=
  .next (answer (.snapshot s.ST_VALID s.ST) s)

end Sys2Proof.Machine
end

