-- ==== Sys2Proof/Machine/Dispatch.lean ====
section
/-! DEFINITION. One arm per operation of spec/opcode_table.json. -/

namespace Sys2Proof.Machine

def exec (i : Instr) (s : State) : Host.Outcome State Fault Refusal :=
  match i with
  | .rxStart => Sys2Proof.Machine.execRxStart s
  | .rxIdleDrop b => Sys2Proof.Machine.execRxIdleDrop b s
  | .rxStopEmit => Sys2Proof.Machine.execRxStopEmit s
  | .rxDataAppend b => Sys2Proof.Machine.execRxDataAppend b s
  | .rxFail e => Sys2Proof.Machine.execRxFail e s
  | .rxHalt => Sys2Proof.Machine.execRxHalt s
  | .stop => Sys2Proof.Machine.execStop s
  | .rxStatus => Sys2Proof.Machine.execRxStatus s
  | .decode frame => Sys2Proof.Machine.execDecode frame s
  | .refresh => Sys2Proof.Machine.execRefresh s
  | .snapshot => Sys2Proof.Machine.execSnapshot s
  | .enable => Sys2Proof.Machine.execEnable s
  | .reset => Sys2Proof.Machine.execReset s
  | .disable => Sys2Proof.Machine.execDisable s
  | .setAnswered idx status => Sys2Proof.Machine.execSetAnswered idx status s
  | .blockReset => Sys2Proof.Machine.execBlockReset s

end Sys2Proof.Machine
end

