-- ==== Sys2Proof/Machine/Fetch.lean ====
section
/-! DEFINITION. How the machine comes to its next operation: the schedule names an agent, and the agent takes
the event or request at the head of its port. -/

namespace Sys2Proof.Machine

/-- The operation of a turn and the state in which it runs, the event or request already consumed. `none` where
the agent has no step: nothing waits at its port, or its step is not enabled (rules R100, R108); an event
that is not enabled stays at the port (rule R108: "the stream is not touched again"). -/
def agentOperation (t : Turn) (s : State) : Option Instr × State :=
  match t with
  | .rx =>
    match s.rxPort with
    | [] => (none, s)
    | ev :: rest =>
      if s.eventEnabled ev then (some (rxEventInstr s.REC ev), { s with rxPort := rest })
      else (none, s)
  | .halt => if s.haltEnabled then (some .rxHalt, s) else (none, s)
  | .host =>
    match s.hostPort with
    | [] => (none, s)
    | req :: rest => (some (hostReqInstr req), { s with hostPort := rest })
  | .blockReset => (some .blockReset, s)

/-- The next operation: the first turn of the schedule is used up. With no turn left the block waits. -/
def fetch (s : State) : Option Instr × State :=
  match s.schedule with
  | [] => (none, s)
  | t :: rest => agentOperation t { s with schedule := rest }

/-- A byte at the head of the RX port, and the turn that takes it. -/
def State.offerByte (s : State) (b : Byte) : State :=
  { s with rxPort := .byte b :: s.rxPort, schedule := .rx :: s.schedule }

/-- A request at the head of the host port, and the turn that serves it. -/
def State.offerRequest (s : State) (req : HostReq) : State :=
  { s with hostPort := req :: s.hostPort, schedule := .host :: s.schedule }

/-- `s` with everything the next step needs in order to select this operation: the event or request at the head
of its port, its turn, and for a byte operation the value of `REC` that selects it. Log entry 5. -/
def State.offer (s : State) : Instr → State
  | .rxStart => s.offerByte Config.START_DELIM
  | .rxIdleDrop b => { s.offerByte b with REC := false }
  | .rxStopEmit => { s.offerByte Config.STOP_DELIM with REC := true }
  | .rxDataAppend b => { s.offerByte b with REC := true }
  | .rxFail e => { s with rxPort := .fail e :: s.rxPort, schedule := .rx :: s.schedule }
  | .rxHalt => { s with STOP_REQ := true, schedule := .halt :: s.schedule }
  | .stop => s.offerRequest .stop
  | .rxStatus => s.offerRequest .rxStatus
  | .decode frame => s.offerRequest (.decode frame)
  | .refresh => s.offerRequest .refresh
  | .snapshot => s.offerRequest .snapshot
  | .enable => s.offerRequest .enable
  | .reset => s.offerRequest .reset
  | .disable => s.offerRequest .disable
  | .setAnswered idx status => s.offerRequest (.setAnswered idx status)
  | .blockReset => { s with schedule := .blockReset :: s.schedule }

end Sys2Proof.Machine
end

