-- ==== Sys2Proof/Machine/Step.lean ====
section
/-! DEFINITION. One step of the machine: one atomic operation of one agent (rules R5, R56, R58). -/

namespace Sys2Proof.Machine

/-- The turn at the head of the schedule runs the operation it selects. A turn of an agent that has no step, and
an empty schedule, leave the block as it is: waiting is the absence of an event (rule R197). -/
def step (s : State) : Host.Outcome State Fault Refusal :=
  match fetch s with
  | (some i, t) => exec i t
  | (none, t) => .next t

/-- `s` prepared so that the next step runs the operation of a table word. Log entry 5. -/
def State.withFetchWord (s : State) (nbits w : Nat) : State :=
  match decodeTableWord nbits w with
  | some i => s.offer i
  | none => s

end Sys2Proof.Machine
end

