-- ==== Sys2Proof/Safety.lean ====
section
/-! DEFINITION. The terms that claims are made in: the invariant of the block, the frame detector as the spec's
prose has it, what a `TxWrite` may do, what two states share, and the runs of the block with their fairness. -/

namespace Sys2Proof.Machine

/-- No byte is a delimiter (rule R71's `DATA*`). -/
def delimiterFree (bytes : List Byte) : Prop := ∀ b ∈ bytes, b ≠ 0x53#8 ∧ b ≠ 0x0A#8

/-- What holds in every state a run reaches (rule R34, with rules R23, R28 to R30, R107, R109 and R22). Rule R34's
first two items are in the types of `ST` and `MBOX`. -/
structure State.Inv (s : State) : Prop where
  /-- Rule R34, item 4. -/
  bufferHasNoDelimiter : delimiterFree s.BUF
  /-- Rules R103 and R36: `BUF` is empty at reset and after an emission. -/
  bufferEmptyWhenIdle : s.REC = false → s.BUF = []
  /-- Rule R82: neither delimiter can appear in a payload. -/
  mailboxHasNoDelimiter : ∀ f, s.MBOX = some f → delimiterFree f.toList
  /-- Rules R28, R106: the agent is dead exactly when it has a terminal error. -/
  deadWithError : s.RX_DEAD = s.RX_ERR.isSome
  /-- Rule R109: `(1, some e, 1)` is unreachable. -/
  notDeadAndStopped : ¬ (s.RX_DEAD = true ∧ s.RX_STOPPED = true)
  /-- Rule R108: the agent exits only on a stop request. -/
  stoppedOnRequest : s.RX_STOPPED = true → s.STOP_REQ = true
  /-- Rules R29, R36: there is a budget only after STOP. -/
  budgetAfterStop : s.STOP_REQ = false → s.STOP_BUDGET = 0
  /-- Rule R208: `STOP_BUDGET ≤ READ_MAX`. -/
  budgetWithinRead : s.STOP_BUDGET ≤ Config.READ_MAX

/-- The frame detector alone, as rules R70 and R110 quote it: "an internal growable buffer and a 'recording'
flag". The claims compare the machine with it. -/
structure Detector where
  recording : Bool
  buffer : List Byte
  deriving DecidableEq, Repr

/-- One byte of the detector, and the frame it emits if any (rules R101 to R104). -/
def Detector.next (d : Detector) (b : Byte) : Detector × Option (List Byte) :=
  if b = 0x53#8 then (⟨true, []⟩, none)
  else if d.recording = false then (d, none)
  else if b = 0x0A#8 then (⟨false, []⟩, some d.buffer)
  else (⟨true, d.buffer ++ [b]⟩, none)

/-- A whole byte sequence, and the frames it emits in order (rule R110's "sequence of `Emit` calls"). -/
def Detector.feed (d : Detector) : List Byte → Detector × List (List Byte)
  | [] => (d, [])
  | b :: bs =>
    let first := d.next b
    let others := first.1.feed bs
    (others.1, first.2.toList ++ others.2)

/-- The detector's part of the state. -/
def State.detector (s : State) : Detector := ⟨s.REC, s.BUF⟩

/-- The channel after these frames were emitted: the last one of length 4, or what it held (rules R59, R105). -/
def latestOf (old : Option (Four Byte)) (frames : List (List Byte)) : Option (Four Byte) :=
  ((frames.filterMap Four.ofList?).getLast?).or old

/-- A status frame on the wire (rule R74): six bytes. -/
def onTheWire (f : Four Byte) : List Byte := [0x53#8] ++ f.toList ++ [0x0A#8]

/-- The turns of one chunk: one of the RX agent for each byte, then one of the host agent for each request that
follows the chunk. -/
def chunkTurns (part : List Byte × List HostReq) : List Turn :=
  List.replicate part.1.length .rx ++ List.replicate part.2.length .host

/-- The ten elements of the block are the same (rule R36). -/
def SameBlock (s t : State) : Prop :=
  s.REC = t.REC ∧ s.BUF = t.BUF ∧ s.MBOX = t.MBOX ∧ s.ST = t.ST ∧ s.ST_VALID = t.ST_VALID ∧
    s.RX_DEAD = t.RX_DEAD ∧ s.RX_ERR = t.RX_ERR ∧ s.STOP_REQ = t.STOP_REQ ∧
    s.STOP_BUDGET = t.STOP_BUDGET ∧ s.RX_STOPPED = t.RX_STOPPED

/-- The provider's answer to the next `TxWrite` in `s`, and the state with that answer used up: the next of the
environment's answers, or a free value. -/
def ProviderAnswers (s : State) (a : TxAnswer) (s' : State) : Prop :=
  (∃ rest, s.txAnswers = a :: rest ∧ s' = { s with txAnswers := rest }) ∨
    (s.txAnswers = [] ∧ a = Config.txAnswer s.draws ∧ s' = { s with draws := s.draws + 1 })

/-- `t` is `s` after a `TxWrite` of these bytes (rule R160). On `Ok` the wire carries all of them and the host has
`Ok`; on `IoError(e)` the wire carries their first `sent` bytes (log entry 11) and the host has the error. All else is
as it was, but for the provider's answer, which is used up. -/
def TxWritten (bytes : List Byte) (s t : State) : Prop :=
  (∃ s', ProviderAnswers s .ok s' ∧
    t = { s' with
      txWire := s.txWire ++ bytes
      hostOut := s.hostOut ++ [.ok] }) ∨
  ∃ e sent s', ProviderAnswers s (.ioError e sent) s' ∧
    t = { s' with
      txWire := s.txWire ++ bytes.take sent
      hostOut := s.hostOut ++ [.raised (.writeIoError e)] }

/-- The operations of the RX agent (rule R32, column "written by"). -/
def rxOp : Instr → Bool
  | .rxStart | .rxIdleDrop _ | .rxStopEmit | .rxDataAppend _ | .rxFail _ | .rxHalt => true
  | .stop | .rxStatus | .decode _ | .refresh | .snapshot | .enable | .reset | .disable
  | .setAnswered _ _ | .blockReset => false

/-- The operations of the host port (rule R42). -/
def hostOp : Instr → Bool
  | .stop | .rxStatus | .decode _ | .refresh | .snapshot | .enable | .reset | .disable
  | .setAnswered _ _ => true
  | .rxStart | .rxIdleDrop _ | .rxStopEmit | .rxDataAppend _ | .rxFail _ | .rxHalt | .blockReset => false

/-- The outcome with its next state, if any, changed. -/
def mapNext (f : State → State) : Host.Outcome State Fault Refusal → Host.Outcome State Fault Refusal
  | .next t => .next (f t)
  | .fault r => .fault r
  | .refused r => .refused r

/-- `n` steps, stopping at the first fault or refusal: the run of rule R58 with nothing supplied in between. -/
def run : Nat → State → Host.Outcome State Fault Refusal
  | 0, s => .next s
  | n + 1, s =>
    match step s with
    | .next t => run n t
    | .fault r => .fault r
    | .refused r => .refused r

/-- Operations one after another, stopping at the first fault or refusal. -/
def runOps : List Instr → State → Host.Outcome State Fault Refusal
  | [], s => .next s
  | i :: rest, s =>
    match exec i s with
    | .next t => runOps rest t
    | .fault r => .fault r
    | .refused r => .refused r

/-- How many bytes wait at the RX port. -/
def bytesWaiting (events : List RxEvent) : Nat :=
  events.countP fun ev => match ev with
    | .byte _ => true
    | .fail _ => false

/-- The environment and the host agent have moved from `s` to `t`: more events and requests may wait, the order of
turns and the provider's coming answers may be anything, and the block, its configuration and its outputs are
untouched. -/
def Supplied (s t : State) : Prop :=
  SameBlock s t ∧ s.rxPort <+: t.rxPort ∧ s.hostPort <+: t.hostPort ∧
    s.txWire = t.txWire ∧ s.hostOut = t.hostOut ∧ s.draws = t.draws ∧
    s.REFRESH_REPORTS_IDENTICAL = t.REFRESH_REPORTS_IDENTICAL

/-- An endless run (rule R58): turn `n` is given in `before n` and leaves `after n`, and between two turns the
environment supplies inputs. -/
structure Run where
  turn : Nat → Turn
  before : Nat → State
  after : Nat → State
  turn_is_next : ∀ n, (before n).schedule.head? = some (turn n)
  steps : ∀ n, step (before n) = .next (after n)
  supplied : ∀ n, Supplied (after n) (before (n + 1))

/-- The RX agent's port has an event it may take. -/
def portReady (s : State) : Prop := ∃ ev rest, s.rxPort = ev :: rest ∧ s.eventEnabled ev = true

/-- The agents of the block (rules R6, R195). Nothing is assumed of the environment (rule R211: "No claim may assume
that the environment ever delivers a byte"). -/
inductive Agent where
  | rx
  | host
  deriving DecidableEq, Repr

/-- The agent has an enabled step. Every host operation is enabled (rule R205), so the host agent has one whenever a
request waits. -/
def Agent.ready : Agent → State → Prop
  | .rx, s => s.haltEnabled = true ∨ portReady s
  | .host, s => s.hostPort ≠ []

/-- The agent takes a step in this turn. -/
def Agent.moves : Agent → Turn → State → Prop
  | .rx, turn, s => (turn = .halt ∧ s.haltEnabled = true) ∨ (turn = .rx ∧ portReady s)
  | .host, turn, s => turn = .host ∧ s.hostPort ≠ []

/-- Weak fairness to one agent (rule R211): "an agent enabled from some step on eventually takes a step".
Log entry 12. -/
def Run.WeaklyFairTo (r : Run) (a : Agent) : Prop :=
  ∀ n, (∀ m, n ≤ m → a.ready (r.before m)) → ∃ m, n ≤ m ∧ a.moves (r.turn m) (r.before m)

/-- A weakly fair run (rule R211). Log entry 12. -/
def Run.WeaklyFair (r : Run) : Prop := ∀ a, r.WeaklyFairTo a

end Sys2Proof.Machine
end

