-- ==== Sys2Proof/Certificates/Slice0/Obligations.lean ====
section
/-! DEFINITION. The statements for the provers. An effect statement gives the whole next state: every field that it
does not name is unchanged, which is the operation's frame. -/

open Sys2Proof Sys2Proof.Machine

/-! ### Encodings (30_encoding.md) -/

/-- Rule R70, the table of format RXB: every byte value with either value of `REC`. -/
def Obligations.RxByteSelectsByClassAndRec : Prop :=
  (∀ recording, decodeRxByte recording 0x53#8 = .rxStart) ∧
  decodeRxByte false 0x0A#8 = .rxIdleDrop 0x0A#8 ∧
  decodeRxByte true 0x0A#8 = .rxStopEmit ∧
  ∀ b, b ≠ 0x53#8 → b ≠ 0x0A#8 →
    decodeRxByte false b = .rxIdleDrop b ∧ decodeRxByte true b = .rxDataAppend b

/-- Words written out bit by bit from the patterns of opcode_table.json and rules R70, R76, R77. -/
def Obligations.TableWordsDecode : Prop :=
  decode (.rx false) [0b01010011#8] = .ok (.rxStart, []) ∧
  decode (.rx true) [0b01010011#8] = .ok (.rxStart, []) ∧
  decode (.rx false) [0b00001010#8] = .ok (.rxIdleDrop 0x0A#8, []) ∧
  decode (.rx true) [0b00001010#8] = .ok (.rxStopEmit, []) ∧
  decode (.rx true) [0b11000010#8] = .ok (.rxDataAppend 0xC2#8, []) ∧
  decode .tx [0b00000001#8] = .ok (.enable, []) ∧
  decode .tx [0b00000010#8] = .ok (.reset, []) ∧
  decode .tx [0b00000011#8] = .ok (.disable, []) ∧
  decode .tx [0b00000100#8, 0b00000010#8, 0b00000001#8] = .ok (.setAnswered 0x02#8 0x01#8, [])

/-- Decode of encode: every well-formed operation with bytes, read where its row puts it and whatever bytes
follow, is read back with its operands. -/
def Obligations.DecodeOfEncodeIsIdentity : Prop :=
  ∀ (i : Instr) (sel : PortSel) (bytes rest : List Byte),
    i.wellFormed = true → encode i = some bytes → readWhere sel i = true →
      decode sel (bytes ++ rest) = .ok (i, rest)

/-- Encode of decode: whatever the decoder reads is a well-formed operation of that place, and its encoding is
exactly the bytes that were read. Rules R75 to R79 speak of what is sent; that the decoder rejects an undefined opcode
and a SET_ANSWERED with an index above 3 is the model's choice (log entry 13). -/
def Obligations.EncodeOfDecodeIsIdentity : Prop :=
  ∀ (sel : PortSel) (bytes rest : List Byte) (i : Instr),
    decode sel bytes = .ok (i, rest) →
      i.wellFormed = true ∧ readWhere sel i = true ∧
        ∃ front, encode i = some front ∧ bytes = front ++ rest

/-- Rule R83, where the spec marks it derived: a reader that starts at the first byte of a TX stream splits it into
the commands that made it. -/
def Obligations.TxStreamSplitsIntoItsCommands : Prop :=
  ∀ (cs : List Command) (parts : List (List Byte)),
    cs.mapM encodeCommand = some parts → splitCommands parts.flatten = .ok cs

/-- Rule R79, the spec's own choice (decision D36): an operation adds to the wire nothing, or a sequence whose first
byte is 0x01 to 0x04. -/
def Obligations.UndefinedOpcodesAreNeverSent : Prop :=
  ∀ (i : Instr) (s t : State), exec i s = .next t →
    ∃ added, t.txWire = s.txWire ++ added ∧
      ∀ b, added.head? = some b → 1 ≤ b.toNat ∧ b.toNat ≤ 4

/-! ### The RX family (40_rx_framing.md) -/

/-- Rule R101: RX_START sets `REC` and clears `BUF`, whatever `REC` is. The budget, of an agent that a STOP
has reached, is the spec's own choice (rule R100, decision D13). -/
def Obligations.RxStartBeginsFrame : Prop :=
  ∀ s : State, s.rxLive = true → (s.STOP_REQ = false ∨ 0 < s.STOP_BUDGET) →
    exec .rxStart s = .next { s with
      REC := true
      BUF := []
      STOP_BUDGET := if s.STOP_REQ then s.STOP_BUDGET - 1 else s.STOP_BUDGET }

/-- Rule R102: RX_IDLE_DROP changes nothing but the stop budget, which is the spec's own choice (rule R100, decision
D13). -/
def Obligations.RxIdleDropDiscardsByte : Prop :=
  ∀ (b : Byte) (s : State), s.rxLive = true → (s.STOP_REQ = false ∨ 0 < s.STOP_BUDGET) →
    s.REC = false → b ≠ 0x53#8 →
    exec (.rxIdleDrop b) s = .next { s with
      STOP_BUDGET := if s.STOP_REQ then s.STOP_BUDGET - 1 else s.STOP_BUDGET }

/-- Rules R103 and R105: RX_STOP_EMIT ends the frame, and a frame of four bytes overwrites the channel. A frame of
any other length leaves the channel as it is. That `BUF` is cleared is the spec's own choice (decision D30), and so
is the one overwriting slot (decision D5). -/
def Obligations.RxStopEmitPushesFourByteFrame : Prop :=
  ∀ s : State, s.rxLive = true → (s.STOP_REQ = false ∨ 0 < s.STOP_BUDGET) → s.REC = true →
    ∃ box, exec .rxStopEmit s = .next { s with
        REC := false
        BUF := []
        MBOX := box
        STOP_BUDGET := if s.STOP_REQ then s.STOP_BUDGET - 1 else s.STOP_BUDGET } ∧
      (∀ a b c d, s.BUF = [a, b, c, d] → box = some ⟨a, b, c, d⟩) ∧
      (s.BUF.length ≠ 4 → box = s.MBOX)

/-- Rule R104: RX_DATA_APPEND appends its byte, without a bound (decision D4). The budget is the spec's own choice
(rule R100, decision D13). -/
def Obligations.RxDataAppendExtendsBuffer : Prop :=
  ∀ (b : Byte) (s : State), s.rxLive = true → (s.STOP_REQ = false ∨ 0 < s.STOP_BUDGET) →
    s.REC = true → b ≠ 0x53#8 → b ≠ 0x0A#8 →
    exec (.rxDataAppend b) s = .next { s with
      BUF := s.BUF ++ [b]
      STOP_BUDGET := if s.STOP_REQ then s.STOP_BUDGET - 1 else s.STOP_BUDGET }

/-- Rule R106: RX_FAIL marks the agent dead with its error and touches nothing else, after STOP too. That
the channel is kept is the spec's own choice (decision D6). -/
def Obligations.RxFailKillsAgentOnly : Prop :=
  ∀ (e : IoErr) (s : State), s.rxLive = true →
    exec (.rxFail e) s = .next { s with RX_DEAD := true, RX_ERR := some e }

/-- Rule R184: a read failure is fatal to the RX agent and to nothing else: the error is not a result of any host
operation, the cached status stays readable, every host operation still completes, and `RX_DEAD` and `RX_ERR` stay
set along every run without a block reset. That only block reset clears them is the spec's own choice (decision
D14); the turns are the model's (log entry 6). -/
def Obligations.ReadFailureIsFatalToReaderOnly : Prop :=
  ∀ (e : IoErr) (s : State), s.rxLive = true →
    ∃ t, exec (.rxFail e) s = .next t ∧ t.RX_DEAD = true ∧ t.RX_ERR = some e ∧
      t.hostOut = s.hostOut ∧ t.ST = s.ST ∧ t.ST_VALID = s.ST_VALID ∧
      (∀ i, hostOp i = true → ∃ u, exec i t = .next u) ∧
      exec .snapshot t = .next { t with hostOut := s.hostOut ++ [.snapshot s.ST_VALID s.ST] } ∧
      ∀ n u, Turn.blockReset ∉ t.schedule → run n t = .next u → u.RX_DEAD = true ∧ u.RX_ERR = some e

/-- Rule R108: RX_HALT stops the agent on a stop request, whatever the budget, and touches nothing
else. That is the spec's own choice (decisions D6, D13). -/
def Obligations.RxHaltStopsAgentOnly : Prop :=
  ∀ s : State, s.rxLive = true → s.STOP_REQ = true →
    exec .rxHalt s = .next { s with RX_STOPPED := true }

/-- Rule R107: STOP answers `Ok`. On an agent that is live and not stopping it sets `STOP_REQ` and draws a budget of
at most `READ_MAX`. Otherwise it changes nothing else. Both are the spec's own choice (decisions D13, D33); that the
draw takes the next free value is the model's (log entry 4). -/
def Obligations.StopRequestsOnce : Prop :=
  ∀ s : State,
    (s.RX_DEAD = true ∨ s.RX_STOPPED = true ∨ s.STOP_REQ = true →
      exec .stop s = .next { s with hostOut := s.hostOut ++ [.ok] }) ∧
    (s.RX_DEAD = false → s.RX_STOPPED = false → s.STOP_REQ = false →
      ∃ budget, budget ≤ Config.READ_MAX ∧
        exec .stop s = .next { s with
          STOP_REQ := true
          STOP_BUDGET := budget
          draws := s.draws + 1
          hostOut := s.hostOut ++ [.ok] })

/-- Rule R109: RX_STATUS answers the three fields and writes none. -/
def Obligations.RxStatusReportsReader : Prop :=
  ∀ s : State, exec .rxStatus s = .next { s with
    hostOut := s.hostOut ++ [.rxStatus s.RX_DEAD s.RX_ERR s.RX_STOPPED] }

/-- Rules R70 and R100: of the operations an RX byte can be, the one that `REC` selects runs, and no other does.
That `exec` stops on the others is the model's (log entry 10). -/
def Obligations.ExactlyOneByteOperationRuns : Prop :=
  ∀ (s : State) (b : Byte), s.rxLive = true → (s.STOP_REQ = false ∨ 0 < s.STOP_BUDGET) →
    ∀ (recording : Bool) (i : Instr), readWhere (.rx recording) i = true → encode i = some [b] →
      ((∃ t, exec i s = .next t) ↔ i = decodeRxByte s.REC b)

/-- Rule R31, which the spec marks derived: an RX agent that is dead or stopped takes no RX step. Each of its
operations stops by name, which is the model's way to say so (log entry 10). -/
def Obligations.NoRxStepUnlessLive : Prop :=
  ∀ (i : Instr) (s : State), rxOp i = true → (s.RX_DEAD = true ∨ s.RX_STOPPED = true) →
    exec i s = .fault .rxAgentNotLive

/-- Rule R100: with the stop budget spent no byte step is enabled, and RX_FAIL and RX_HALT remain enabled: the
spec's own choice (decision D13). The fault is the model's name for a step that does not exist (log entry 10). -/
def Obligations.SpentBudgetLeavesFailAndHalt : Prop :=
  ∀ s : State, s.rxLive = true → s.STOP_REQ = true → s.STOP_BUDGET = 0 →
    exec .rxStart s = .fault .stopBudgetSpent ∧
    (∀ b, exec (.rxIdleDrop b) s = .fault .stopBudgetSpent) ∧
    exec .rxStopEmit s = .fault .stopBudgetSpent ∧
    (∀ b, exec (.rxDataAppend b) s = .fault .stopBudgetSpent) ∧
    (∀ e, ∃ t, exec (.rxFail e) s = .next t) ∧
    ∃ t, exec .rxHalt s = .next t

/-- The machine refines the frame detector: given one turn for each of the bytes at its port, the RX agent ends with
the detector's state, and the channel holds the last four-byte frame that the detector emits. The turns and
the queue at the port are the model's (log entry 6). -/
def Obligations.RxRunRefinesDetector : Prop :=
  ∀ (bytes : List Byte) (s : State) (more : List RxEvent) (turns : List Turn),
    s.rxLive = true → (s.STOP_REQ = false ∨ bytes.length ≤ s.STOP_BUDGET) →
    s.rxPort = bytes.map .byte ++ more → s.schedule = List.replicate bytes.length .rx ++ turns →
    run bytes.length s = .next { s with
      REC := (s.detector.feed bytes).1.recording
      BUF := (s.detector.feed bytes).1.buffer
      MBOX := latestOf s.MBOX (s.detector.feed bytes).2
      STOP_BUDGET := if s.STOP_REQ then s.STOP_BUDGET - bytes.length else s.STOP_BUDGET
      rxPort := more
      schedule := turns }

/-- Rule R110, which the spec marks derived, on the machine: the bytes at the RX port are taken in any chunks, with any
host operations but REFRESH between the chunks, and the run ends with `REC`, `BUF` and `MBOX` as the detector leaves
them on the whole byte sequence. STOP stands between chunks only if the agent is stopping already, since it would cut
the bytes short; the bytes are then within the budget. The turns and the queues are the model's (log entry 6). -/
def Obligations.ChunkSplitInvariance : Prop :=
  ∀ (parts : List (List Byte × List HostReq)) (s : State) (more : List RxEvent) (reqs : List HostReq)
    (turns : List Turn),
    (∀ p ∈ parts, .refresh ∉ p.2) → s.rxLive = true →
    ((s.STOP_REQ = false ∧ ∀ p ∈ parts, .stop ∉ p.2) ∨
      (s.STOP_REQ = true ∧ (parts.flatMap (·.1)).length ≤ s.STOP_BUDGET)) →
    s.rxPort = (parts.flatMap (·.1)).map .byte ++ more →
    s.hostPort = parts.flatMap (·.2) ++ reqs →
    s.schedule = parts.flatMap chunkTurns ++ turns →
    ∃ t, run (parts.flatMap chunkTurns).length s = .next t ∧
      t.REC = (s.detector.feed (parts.flatMap (·.1))).1.recording ∧
      t.BUF = (s.detector.feed (parts.flatMap (·.1))).1.buffer ∧
      t.MBOX = latestOf s.MBOX (s.detector.feed (parts.flatMap (·.1))).2 ∧
      t.rxPort = more ∧ t.hostPort = reqs ∧ t.schedule = turns ∧
      t.hostOut.length = s.hostOut.length + (parts.flatMap (·.2)).length

/-- Rule R111, which the spec marks derived: from any detector state, a delimited payload without delimiters emits
exactly one frame, the payload, and emits it at the last byte; afterwards `REC = 0`. -/
def Obligations.FramingRoundTrip : Prop :=
  ∀ (d : Detector) (p : List Byte), delimiterFree p →
    (d.feed ([0x53#8] ++ p)).2 = [] ∧
    (d.feed ([0x53#8] ++ p ++ [0x0A#8])).2 = [p] ∧
    (d.feed ([0x53#8] ++ p ++ [0x0A#8])).1.recording = false

/-- Rule R112, which the spec marks derived: bytes before a start delimiter have no effect on the state after it or
on later emissions. -/
def Obligations.StartDelimiterResynchronises : Prop :=
  ∀ (d d' : Detector) (before before' after : List Byte),
    (d.feed (before ++ 0x53#8 :: after)).1 = (d'.feed (before' ++ 0x53#8 :: after)).1 ∧
    (d.feed (before ++ 0x53#8 :: after)).2 =
      (d.feed before).2 ++ (d'.feed (0x53#8 :: after)).2

/-- Rule R82, which the spec marks derived: no frame the detector emits holds 0x53 or 0x0A, from any state whose
buffer holds neither. -/
def Obligations.EmittedPayloadsHoldNoDelimiter : Prop :=
  ∀ (d : Detector) (bytes frame : List Byte), delimiterFree d.buffer →
    frame ∈ (d.feed bytes).2 → delimiterFree frame

/-! ### The status family (41_status_decode.md) -/

/-- Rule R130, in the masks it quotes: `connected`, `has_answered` and the state code of any byte. -/
def Obligations.DecodeByteReadsMaskedFields : Prop :=
  ∀ b : Byte,
    (b &&& 0x0F#8 = 1#8 → decodeByte b =
      .ok ⟨b &&& 0x80#8 != 0#8, b &&& 0x40#8 != 0#8, .disabled⟩) ∧
    (b &&& 0x0F#8 = 2#8 → decodeByte b =
      .ok ⟨b &&& 0x80#8 != 0#8, b &&& 0x40#8 != 0#8, .enabled⟩) ∧
    (b &&& 0x0F#8 = 3#8 → decodeByte b =
      .ok ⟨b &&& 0x80#8 != 0#8, b &&& 0x40#8 != 0#8, .answered⟩) ∧
    (b &&& 0x0F#8 ≠ 1#8 → b &&& 0x0F#8 ≠ 2#8 → b &&& 0x0F#8 ≠ 3#8 →
      ∃ c : BitVec 4, c.toNat = (b &&& 0x0F#8).toNat ∧ decodeByte b = .error (.invalidState c))

/-- Rule R81, which the spec marks derived: two bytes that differ only in bits 5 and 4 decode alike. -/
def Obligations.BitsFiveAndFourAreIgnored : Prop :=
  ∀ b b' : Byte, b &&& 0xCF#8 = b' &&& 0xCF#8 → decodeByte b = decodeByte b'

/-- Rules R131 and R134: a length other than 4 is `WrongLength`; four bytes decode exactly when each lane does, entry
`i` from byte `i`; otherwise the error is that of the lowest lane that fails, the spec's own choice
(decision D9). -/
def Obligations.DecodeIsFourLanesLowestErrorFirst : Prop :=
  (∀ frame : List Byte, frame.length ≠ 4 → decodeFrame frame = .error .wrongLength) ∧
  ∀ f : Four Byte,
    (∀ v, decodeFrame [f.get 0, f.get 1, f.get 2, f.get 3] = .ok v ↔
      ∀ i, decodeByte (f.get i) = .ok (v.get i)) ∧
    (∀ e, decodeFrame [f.get 0, f.get 1, f.get 2, f.get 3] = .error e ↔
      ∃ i, decodeByte (f.get i) = .error e ∧ ∀ j, j < i → ∃ r, decodeByte (f.get j) = .ok r)

/-- Rule R131: DECODE runs in every state and writes none; it answers the decoded entries or raises the error. -/
def Obligations.DecodeAnswersAndWritesNothing : Prop :=
  ∀ (frame : List Byte) (s : State),
    ∃ r, exec (.decode frame) s = .next { s with hostOut := s.hostOut ++ [r] } ∧
      (∀ v, decodeFrame frame = .ok v → r = .decoded v) ∧
      (∀ e, decodeFrame frame = .error e → r = .raised e)

/-- Rule R132: REFRESH answers `Empty` on an empty channel; otherwise the frame is consumed, and either `ST` is
replaced whole and `Applied` answered, or the error is raised and `ST` and `ST_VALID` stay. What `Applied` says of an
identical value is the configuration Boolean of decision D8, under both settings (log entry 3). -/
def Obligations.RefreshAppliesLatestFrame : Prop :=
  ∀ s : State,
    (s.MBOX = none → exec .refresh s = .next { s with hostOut := s.hostOut ++ [.empty] }) ∧
    ∀ f, s.MBOX = some f →
      (∀ v, decodeFrame [f.get 0, f.get 1, f.get 2, f.get 3] = .ok v →
        ∃ changed, exec .refresh s = .next { s with
            MBOX := none
            ST := v
            ST_VALID := true
            hostOut := s.hostOut ++ [.applied changed] } ∧
          (changed = true ↔
            s.REFRESH_REPORTS_IDENTICAL = true ∨ s.ST_VALID = false ∨ v ≠ s.ST)) ∧
      (∀ e, decodeFrame [f.get 0, f.get 1, f.get 2, f.get 3] = .error e →
        exec .refresh s = .next { s with
          MBOX := none
          hostOut := s.hostOut ++ [.raised e] })

/-- Rule R133: SNAPSHOT answers `ST_VALID` and the four entries together and writes none. -/
def Obligations.SnapshotReportsStatus : Prop :=
  ∀ s : State, exec .snapshot s = .next { s with
    hostOut := s.hostOut ++ [.snapshot s.ST_VALID ⟨s.ST.get 0, s.ST.get 1, s.ST.get 2, s.ST.get 3⟩] }

/-- Rule R206, which the spec marks derived, and rule R57: after a REFRESH, and any operations but RX_STOP_EMIT, which
is the one that pushes, a second REFRESH gives `Empty`, also when the first raised an error. -/
def Obligations.SecondRefreshIsEmpty : Prop :=
  ∀ (s : State) (between : List Instr), .rxStopEmit ∉ between →
    ∃ t, exec .refresh s = .next t ∧
      ∀ u, runOps between t = .next u →
        exec .refresh u = .next { u with hostOut := u.hostOut ++ [.empty] }

/-- Rule R57: after a SNAPSHOT, an RX_STATUS or a DECODE the block is as before, and the operation repeated gives the
same result. -/
def Obligations.ReadsHaveNoSideEffect : Prop :=
  ∀ (i : Instr) (s : State),
    (i = .snapshot ∨ i = .rxStatus ∨ ∃ frame, i = .decode frame) →
      ∃ r, exec i s = .next { s with hostOut := s.hostOut ++ [r] } ∧
        exec i { s with hostOut := s.hostOut ++ [r] } =
          .next { s with hostOut := s.hostOut ++ [r, r] }

/-- Rule R86, the spec's own choice (decision D25): each field of the packed word, and the packed bytes decode back to
the register. -/
def Obligations.PackedViewLayout : Prop :=
  ∀ (v : Four ButtonStatus) (i : Fin 4),
    (packStatus v).getLsbD (8 * i.val + 7) = (v.get i).connected ∧
    (packStatus v).getLsbD (8 * i.val + 6) = (v.get i).hasAnswered ∧
    (packStatus v).extractLsb' (8 * i.val + 4) 2 = 0#2 ∧
    (packStatus v).extractLsb' (8 * i.val) 4 = codeOfState (v.get i).state ∧
    decodeByte ((packStatus v).extractLsb' (8 * i.val) 8) = .ok (v.get i)

/-- Rule R86 (decision D25): packing what four status bytes decode to gives those bytes with bits 5 and 4 cleared. -/
def Obligations.RepackingClearsIgnoredBits : Prop :=
  ∀ (f : Four Byte) (v : Four ButtonStatus), decodeFrame f.toList = .ok v →
    ∀ i : Fin 4, (packStatus v).extractLsb' (8 * i.val) 8 = f.get i &&& 0xCF#8

/-- Rules R59 and R132 along a run: after the bytes of one or more status frames, a REFRESH decodes the last of them,
consumes it, and discards the others. The one slot is the spec's own choice (decision D5); the turns and queues are
the model's (log entry 6). -/
def Obligations.RefreshSeesLastOfManyFrames : Prop :=
  ∀ (frames : List (Four Byte)) (last : Four Byte) (s : State) (more : List RxEvent)
    (reqs : List HostReq) (turns : List Turn),
    frames.getLast? = some last → (∀ f ∈ frames, delimiterFree f.toList) →
    s.rxLive = true → s.STOP_REQ = false →
    s.rxPort = (frames.flatMap onTheWire).map .byte ++ more →
    s.hostPort = .refresh :: reqs →
    s.schedule = List.replicate (6 * frames.length) .rx ++ .host :: turns →
    ∃ t, run (6 * frames.length + 1) s = .next t ∧ t.MBOX = none ∧ t.rxPort = more ∧
      (∀ v, decodeFrame last.toList = .ok v → t.ST = v ∧ t.ST_VALID = true ∧
        ∃ changed, t.hostOut = s.hostOut ++ [.applied changed]) ∧
      (∀ e, decodeFrame last.toList = .error e → t.ST = s.ST ∧ t.ST_VALID = s.ST_VALID ∧
        t.hostOut = s.hostOut ++ [.raised e])

/-! ### The command family (42_command_encode.md) -/

/-- Rule R161 with rule R160: ENABLE offers `01`, in every state. The prefix on a failure and the sending in every
state are the spec's own choice (decisions D11, D12); the script of answers, the drawn ones past its end and the
count of the prefix are the model's (log entries 4, 7, 11). -/
def Obligations.EnableWritesOpcodeOne : Prop :=
  ∀ s : State, ∃ t, exec .enable s = .next t ∧ TxWritten [0x01#8] s t

/-- Rule R162 with rule R160: RESET offers `02` and changes no state of the block. The prefix on a failure and the
sending in every state are the spec's own choice (decisions D11, D12); the script of answers, the drawn ones past
its end and the count of the prefix are the model's (log entries 4, 7, 11). -/
def Obligations.ResetCommandWritesOpcodeTwo : Prop :=
  ∀ s : State, ∃ t, exec .reset s = .next t ∧ TxWritten [0x02#8] s t

/-- Rule R163 with rule R160: DISABLE offers `03`. The prefix on a failure and the sending in every state are the
spec's own choice (decisions D11, D12); the script of answers, the drawn ones past its end and the count of the
prefix are the model's (log entries 4, 7, 11). -/
def Obligations.DisableWritesOpcodeThree : Prop :=
  ∀ s : State, ∃ t, exec .disable s = .next t ∧ TxWritten [0x03#8] s t

/-- Rules R164, R77 and R78: an index of 0..3 is sent, with the status byte unchanged. That every status value is
sent unchecked is the spec's own choice (decision D10). The prefix on a failure and the sending in every state are
the spec's own choice (decisions D11, D12); the script of answers, the drawn ones past its end and the count of the
prefix are the model's (log entries 4, 7, 11). -/
def Obligations.SetAnsweredWritesThreeBytes : Prop :=
  ∀ (idx status : Byte) (s : State), idx.toNat ≤ 3 →
    ∃ t, exec (.setAnswered idx status) s = .next t ∧ TxWritten [0x04#8, idx, status] s t

/-- Rule R183: a higher index is refused before anything is offered to the provider, and nothing else happens. -/
def Obligations.SetAnsweredRefusesHighIndex : Prop :=
  ∀ (idx status : Byte) (s : State), 3 < idx.toNat →
    exec (.setAnswered idx status) s = .next { s with
      hostOut := s.hostOut ++ [.raised .invalidButtonIndex] }

/-- Rule R185: when the provider's next answer is a failure, scripted or drawn, the caller of the send operation gets
its error, and no element of the block changes, those of the RX agent among them. Where the answer comes from is the
model's (log entries 4 and 7). -/
def Obligations.WriteFailureReturnsToCallerOnly : Prop :=
  ∀ (c : Command) (s s' : State) (e : IoErr) (sent : Nat),
    (encodeCommand c).isSome = true → ProviderAnswers s (.ioError e sent) s' →
    ∃ t, exec c.instr s = .next t ∧ t.hostOut = s.hostOut ++ [.raised (.writeIoError e)] ∧
      SameBlock s t

/-- Rule R165: a send operation behaves the same in any two states in which the provider answers alike, whatever the
RX side holds, and it writes none of the block's elements: the spec's own choice (decision D12). That the provider
answers alike is said by equal scripts and equal counters of free values, which is the model's (log entries 4, 7). -/
def Obligations.SendsIgnoreTheRxSide : Prop :=
  ∀ (c : Command) (s s' : State), s.txAnswers = s'.txAnswers → s.draws = s'.draws →
    ∃ t t' bytes r, exec c.instr s = .next t ∧ exec c.instr s' = .next t' ∧
      t.txWire = s.txWire ++ bytes ∧ t'.txWire = s'.txWire ++ bytes ∧
      t.hostOut = s.hostOut ++ [r] ∧ t'.hostOut = s'.hostOut ++ [r] ∧
      t.txAnswers = t'.txAnswers ∧ t.draws = t'.draws ∧ SameBlock s t ∧ SameBlock s' t'

/-- Rule R62: no RX step reads or writes the TX side: with any other wire and any other coming answers it does the
same and leaves them as they are. -/
def Obligations.RxStepsIgnoreTheTxSide : Prop :=
  ∀ (i : Instr) (s : State) (wire : List Byte) (answers : List TxAnswer), rxOp i = true →
    exec i { s with txWire := wire, txAnswers := answers } =
      mapNext (fun t => { t with txWire := wire, txAnswers := answers }) (exec i s)

/-- Rule R180, the spec's own choice (decision D15): the code of each error, and of a result that is none. -/
def Obligations.ErrorCodes : Prop :=
  BlockError.wrongLength.code = 1 ∧ (∀ c, (BlockError.invalidState c).code = 2) ∧
  BlockError.invalidButtonIndex.code = 3 ∧ (∀ e, (BlockError.readIoError e).code = 4) ∧
  (∀ e, (BlockError.writeIoError e).code = 5) ∧
  ∀ r : HostResult, (r.code = 0 ↔ ∀ e, r ≠ .raised e)

/-! ### Reset and the whole machine -/

/-- Rule R200: BLOCK_RESET gives every element of rule R36's table its reset value, from any state, with some value
for `ST`. Nothing at a port and nothing on the wire changes. All of it is the spec's own choice (decisions D7, D22,
D32). The free value for `ST` and the ports' part are the model's (log entries 4, 9). -/
def Obligations.BlockResetRestoresResetValues : Prop :=
  ∀ s : State, ∃ drawn : Four ButtonStatus, exec .blockReset s = .next { s with
    REC := false
    BUF := []
    MBOX := none
    ST := drawn
    ST_VALID := false
    RX_DEAD := false
    RX_ERR := none
    STOP_REQ := false
    STOP_BUDGET := 0
    RX_STOPPED := false
    draws := s.draws + 1 }

/-- Rule R36: the reset values of the table, less `ST`, which is any value, and rule R8's default of the
configuration Boolean. They are the spec's own choice (decisions D3, D7, D8, D13, D14, D22). -/
def Obligations.ResetStateHasTableValues : Prop :=
  State.reset.REC = false ∧ State.reset.BUF = [] ∧ State.reset.MBOX = none ∧
  State.reset.ST_VALID = false ∧ State.reset.RX_DEAD = false ∧ State.reset.RX_ERR = none ∧
  State.reset.STOP_REQ = false ∧ State.reset.STOP_BUDGET = 0 ∧ State.reset.RX_STOPPED = false ∧
  State.reset.rxLive = true ∧ State.reset.REFRESH_REPORTS_IDENTICAL = true

/-- Rule R58 made a step: each turn runs the operation its agent's port selects, in the state with that event or
request consumed, each request its operation of rule R42's table; a turn of an agent without a step, and an empty
schedule, change nothing else. The schedule and the queues are the model's (log entry 6). -/
def Obligations.StepRunsSelectedOperation : Prop :=
  ∀ (s : State) (turns : List Turn),
    (s.schedule = [] → step s = .next s) ∧
    (s.schedule = .blockReset :: turns → step s = exec .blockReset { s with schedule := turns }) ∧
    (∀ req i reqs, s.schedule = .host :: turns → s.hostPort = req :: reqs →
      ((∃ frame, req = .decode frame ∧ i = .decode frame) ∨ (req = .refresh ∧ i = .refresh) ∨
        (req = .snapshot ∧ i = .snapshot) ∨ (req = .enable ∧ i = .enable) ∨
        (req = .reset ∧ i = .reset) ∨ (req = .disable ∧ i = .disable) ∨
        (∃ idx status, req = .setAnswered idx status ∧ i = .setAnswered idx status) ∨
        (req = .stop ∧ i = .stop) ∨ (req = .rxStatus ∧ i = .rxStatus)) →
      step s = exec i { s with schedule := turns, hostPort := reqs }) ∧
    (s.schedule = .host :: turns → s.hostPort = [] → step s = .next { s with schedule := turns }) ∧
    (s.schedule = .halt :: turns → s.rxLive = true → s.STOP_REQ = true →
      step s = exec .rxHalt { s with schedule := turns }) ∧
    (s.schedule = .halt :: turns → s.rxLive = false ∨ s.STOP_REQ = false →
      step s = .next { s with schedule := turns }) ∧
    (∀ b evs, s.schedule = .rx :: turns → s.rxPort = .byte b :: evs → s.rxLive = true →
      (s.STOP_REQ = false ∨ 0 < s.STOP_BUDGET) →
      step s = exec (decodeRxByte s.REC b) { s with schedule := turns, rxPort := evs }) ∧
    (∀ e evs, s.schedule = .rx :: turns → s.rxPort = .fail e :: evs → s.rxLive = true →
      step s = exec (.rxFail e) { s with schedule := turns, rxPort := evs }) ∧
    (s.schedule = .rx :: turns → s.rxPort = [] ∨ s.rxLive = false →
      step s = .next { s with schedule := turns }) ∧
    (∀ b evs, s.schedule = .rx :: turns → s.rxPort = .byte b :: evs → s.STOP_REQ = true →
      s.STOP_BUDGET = 0 → step s = .next { s with schedule := turns })

/-- The bytes of a table word, offered to a live and not stopping machine, are what the next step runs: the
operation itself, in a state that differs at most in `REC`. How a table word is read and offered is the model's (log
entry 5). -/
def Obligations.OfferedTableWordRunsNext : Prop :=
  ∀ (nbits w : Nat) (i : Instr) (s : State), decodeTableWord nbits w = some i →
    s.rxLive = true → s.STOP_REQ = false →
    ∃ recording, step (s.withFetchWord nbits w) = exec i { s with REC := recording } ∧
      (hostOp i = true → recording = s.REC)

/-- Rule R205 and the enabling conditions of every rule: an operation runs exactly in the states in which its row's
condition holds. That `exec` stops elsewhere is the model's (log entry 10); the budget is the spec's own choice
(decision D13). -/
def Obligations.OperationRunsExactlyWhenEnabled : Prop :=
  ∀ (i : Instr) (s : State), (∃ t, exec i s = .next t) ↔ enabled i s = true

/-- Rule R205: the host never waits. Every host operation completes in one step in every state with exactly one
result more, and leaves the RX agent's own elements alone. That the RX side disables no send is the spec's own
choice (decision D12). -/
def Obligations.HostOperationsAlwaysComplete : Prop :=
  ∀ (i : Instr) (s : State), hostOp i = true →
    ∃ t r, exec i s = .next t ∧ t.hostOut = s.hostOut ++ [r] ∧
      t.REC = s.REC ∧ t.BUF = s.BUF ∧ t.RX_DEAD = s.RX_DEAD ∧ t.RX_ERR = s.RX_ERR ∧
      t.RX_STOPPED = s.RX_STOPPED

/-- Rule R35, which the spec marks derived: `REC`, `BUF` and `STOP_BUDGET` cannot be read by any host operation:
whatever they hold, the operation hands back the same result and puts the same bytes on the wire. Both states have the
same script and the same counter of free values, so the provider answers a send alike in both (log entries 4, 7). -/
def Obligations.HiddenStateIsNotObservable : Prop :=
  ∀ (i : Instr) (s : State) (recording : Bool) (buffer : List Byte) (budget : Nat),
    hostOp i = true →
    ∃ t t', exec i s = .next t ∧
      exec i { s with REC := recording, BUF := buffer, STOP_BUDGET := budget } = .next t' ∧
      t'.hostOut = t.hostOut ∧ t'.txWire = t.txWire ∧ t'.ST = t.ST ∧ t'.ST_VALID = t.ST_VALID

/-- Rule R32's table: an element that an operation changes is one that the table lets it write. The
configuration Boolean of rule R8 is written by none. -/
def Obligations.OnlyOwnersWrite : Prop :=
  ∀ (i : Instr) (s t : State), exec i s = .next t → i ≠ .blockReset →
    (t.REC ≠ s.REC ∨ t.BUF ≠ s.BUF →
      i = .rxStart ∨ i = .rxStopEmit ∨ ∃ b, i = .rxDataAppend b) ∧
    (t.MBOX ≠ s.MBOX → i = .rxStopEmit ∨ i = .refresh) ∧
    (t.ST ≠ s.ST ∨ t.ST_VALID ≠ s.ST_VALID → i = .refresh) ∧
    (t.RX_DEAD ≠ s.RX_DEAD ∨ t.RX_ERR ≠ s.RX_ERR → ∃ e, i = .rxFail e) ∧
    (t.STOP_REQ ≠ s.STOP_REQ → i = .stop) ∧
    (t.STOP_BUDGET ≠ s.STOP_BUDGET →
      i = .stop ∨ i = .rxStart ∨ i = .rxStopEmit ∨ (∃ b, i = .rxDataAppend b) ∨
        ∃ b, i = .rxIdleDrop b) ∧
    (t.RX_STOPPED ≠ s.RX_STOPPED → i = .rxHalt) ∧
    t.REFRESH_REPORTS_IDENTICAL = s.REFRESH_REPORTS_IDENTICAL

/-- Rule R24: in one operation `ST` is left as it is, or it is replaced by the decode of the whole frame in the
channel, or it is drawn anew by block reset (decision D7). -/
def Obligations.StatusIsReplacedWholeOrNotAtAll : Prop :=
  ∀ (i : Instr) (s t : State), exec i s = .next t →
    t.ST = s.ST ∨ i = .blockReset ∨
      ∃ f, i = .refresh ∧ s.MBOX = some f ∧ decodeFrame f.toList = .ok t.ST ∧ t.ST_VALID = true

/-- Rules R133 and R200: a step never takes back a result already returned or a byte already on the wire. That
outputs are kept as lists is the model's (log entry 8); block reset's part is the spec's own choice (decision D32).
-/
def Obligations.OutputsOnlyGrow : Prop :=
  ∀ s t : State, step s = .next t → s.hostOut <+: t.hostOut ∧ s.txWire <+: t.txWire

/-- The invariant holds at reset (rules R34, R36). -/
def Obligations.InvariantHoldsAtReset : Prop := State.reset.Inv

/-- Rule R34, which the spec marks derived, and the clauses of `State.Inv`: every step keeps the invariant. -/
def Obligations.EveryStepKeepsInvariant : Prop :=
  ∀ s t : State, s.Inv → step s = .next t → t.Inv

/-- Rule R212: the block never stops by itself: from every state a step answers a next state. A step of the model
may be a turn without effect, or waiting (log entry 6). -/
def Obligations.BlockNeverStops : Prop :=
  ∀ s : State, ∃ t, step s = .next t

/-- Rule R201: along any run, an RX agent that is dead or stopped takes no step until the next block reset: it stays
dead or stopped, its port and its elements stay as they are, and nothing is pushed. That only block reset ends it is
the spec's own choice (decisions D14, D22). The turns and the queues are the model's (log entry 6). -/
def Obligations.OnlyBlockResetRevivesReader : Prop :=
  ∀ (n : Nat) (s t : State), s.rxLive = false → Turn.blockReset ∉ s.schedule →
    run n s = .next t →
    t.rxLive = false ∧ t.RX_DEAD = s.RX_DEAD ∧ t.RX_ERR = s.RX_ERR ∧ t.RX_STOPPED = s.RX_STOPPED ∧
      t.rxPort = s.rxPort ∧ t.REC = s.REC ∧ t.BUF = s.BUF ∧ (t.MBOX = s.MBOX ∨ t.MBOX = none)

/-- Rule R208: along any run after a stop request, the bytes taken are at most the budget, the spec's own choice
(decision D13). The turns and the queues are the model's (log entry 6). -/
def Obligations.BytesAfterStopAreBounded : Prop :=
  ∀ (n : Nat) (s t : State), s.STOP_REQ = true → Turn.blockReset ∉ s.schedule →
    run n s = .next t →
    bytesWaiting s.rxPort + t.STOP_BUDGET ≤ bytesWaiting t.rxPort + s.STOP_BUDGET

/-- Rule R211: in a run that is weakly fair to the RX agent, after a stop request and without a block reset, the agent
is at some point dead or stopped: the spec's own choice (decision D20). Fairness is read for the agent as a whole
(log entry 12), and the turns are the model's (log entry 6). -/
def Obligations.FairRunsHaltAfterStop : Prop :=
  ∀ (r : Run) (n : Nat), r.WeaklyFairTo .rx → (r.before n).STOP_REQ = true →
    (∀ m, n ≤ m → r.turn m ≠ .blockReset) →
    ∃ m, n ≤ m ∧ ((r.before m).RX_DEAD = true ∨ (r.before m).RX_STOPPED = true)

/-- Rule R211 for the host agent: in a run that is weakly fair to it, every request that waits at the host port, however
many wait before it, is at some point served, with one result: the spec's own choice (decision D20). Fairness is read
for the agent as a whole (log entry 12), and the turns and the queue are the model's (log entry 6). -/
def Obligations.FairRunsServeEveryRequest : Prop :=
  ∀ (r : Run) (n : Nat) (ahead behind : List HostReq) (req : HostReq), r.WeaklyFairTo .host →
    (r.before n).hostPort = ahead ++ req :: behind →
    ∃ m result, n ≤ m ∧ r.turn m = .host ∧ (r.before m).hostPort.head? = some req ∧
      (r.after m).hostOut = (r.before m).hostOut ++ [result]
end

