-- ==== Sys2Proof/Laws/Decode.lean ====
section
/-! SUPPORT. The decoder's values on each kind of byte. -/

namespace Sys2Proof

theorem decodeRxByte_start (recording : Bool) : decodeRxByte recording 0x53#8 = .rxStart := by
  cases recording <;> rfl

theorem decodeRxByte_stop : decodeRxByte true 0x0A#8 = .rxStopEmit := rfl

theorem decodeRxByte_idle {b : Byte} (h : b ≠ 0x53#8) : decodeRxByte false b = .rxIdleDrop b := by
  by_cases h' : b = 0x0A#8 <;>
    simp [decodeRxByte, rxClass, Config.START_DELIM, Config.STOP_DELIM, h, h']

theorem decodeRxByte_data {b : Byte} (h : b ≠ 0x53#8) (h' : b ≠ 0x0A#8) :
    decodeRxByte true b = .rxDataAppend b := by
  simp [decodeRxByte, rxClass, Config.START_DELIM, Config.STOP_DELIM, h, h']

/-- Every case of the RX byte table (rule R70). -/
theorem decodeRxByte_cases (recording : Bool) (b : Byte) :
    (b = 0x53#8 ∧ decodeRxByte recording b = .rxStart) ∨
      (recording = false ∧ b ≠ 0x53#8 ∧ decodeRxByte recording b = .rxIdleDrop b) ∨
      (recording = true ∧ b = 0x0A#8 ∧ decodeRxByte recording b = .rxStopEmit) ∨
      (recording = true ∧ b ≠ 0x53#8 ∧ b ≠ 0x0A#8 ∧ decodeRxByte recording b = .rxDataAppend b) := by
  by_cases h : b = 0x53#8
  · exact .inl ⟨h, h ▸ decodeRxByte_start recording⟩
  · cases recording with
    | false => exact .inr (.inl ⟨rfl, h, decodeRxByte_idle h⟩)
    | true =>
      by_cases h' : b = 0x0A#8
      · exact .inr (.inr (.inl ⟨rfl, h', h' ▸ decodeRxByte_stop⟩))
      · exact .inr (.inr (.inr ⟨rfl, h, h', decodeRxByte_data h h'⟩))

/-- A command that has bytes is read back from the front of any sequence. -/
theorem decodeTx_encodeCommand {c : Command} {bytes : List Byte} (h : encodeCommand c = some bytes)
    (rest : List Byte) : decodeTx (bytes ++ rest) = .ok (c, rest) := by
  cases c with
  | enable | reset | disable => cases h; rfl
  | setAnswered idx status =>
    simp only [encodeCommand, gt_iff_lt, Option.ite_none_left_eq_some, Nat.not_lt, Option.some.injEq] at h
    obtain ⟨hidx, rfl⟩ := h
    simp [decodeTx, Config.NUM_BUTTONS, Nat.lt_succ_of_le hidx]

/-- Every command that has bytes has an opcode of rule R75 as its first byte. -/
theorem encodeCommand_opcode {c : Command} {bytes : List Byte} (h : encodeCommand c = some bytes) :
    ∃ op rest, bytes = op :: rest ∧ 1 ≤ op.toNat ∧ op.toNat ≤ 4 := by
  cases c with
  | enable | reset | disable => cases h; exact ⟨_, _, rfl, by decide, by decide⟩
  | setAnswered idx status =>
    simp only [encodeCommand, gt_iff_lt, Option.ite_none_left_eq_some, Option.some.injEq] at h
    exact ⟨_, _, h.2.symm, by decide, by decide⟩

end Sys2Proof
end

