-- ==== Sys2Proof/Laws/State.lean ====
section
/-! SUPPORT. One lemma per field of State for each shared update, true by unfolding, so that no later proof unfolds
a record update. -/

namespace Sys2Proof.Machine

@[simp] theorem answer_REC (r : HostResult) (s : State) :
    (answer r s).REC = s.REC := rfl
@[simp] theorem answer_BUF (r : HostResult) (s : State) :
    (answer r s).BUF = s.BUF := rfl
@[simp] theorem answer_MBOX (r : HostResult) (s : State) :
    (answer r s).MBOX = s.MBOX := rfl
@[simp] theorem answer_ST (r : HostResult) (s : State) :
    (answer r s).ST = s.ST := rfl
@[simp] theorem answer_ST_VALID (r : HostResult) (s : State) :
    (answer r s).ST_VALID = s.ST_VALID := rfl
@[simp] theorem answer_RX_DEAD (r : HostResult) (s : State) :
    (answer r s).RX_DEAD = s.RX_DEAD := rfl
@[simp] theorem answer_RX_ERR (r : HostResult) (s : State) :
    (answer r s).RX_ERR = s.RX_ERR := rfl
@[simp] theorem answer_STOP_REQ (r : HostResult) (s : State) :
    (answer r s).STOP_REQ = s.STOP_REQ := rfl
@[simp] theorem answer_STOP_BUDGET (r : HostResult) (s : State) :
    (answer r s).STOP_BUDGET = s.STOP_BUDGET := rfl
@[simp] theorem answer_RX_STOPPED (r : HostResult) (s : State) :
    (answer r s).RX_STOPPED = s.RX_STOPPED := rfl
@[simp] theorem answer_REFRESH_REPORTS_IDENTICAL (r : HostResult) (s : State) :
    (answer r s).REFRESH_REPORTS_IDENTICAL = s.REFRESH_REPORTS_IDENTICAL := rfl
@[simp] theorem answer_rxPort (r : HostResult) (s : State) :
    (answer r s).rxPort = s.rxPort := rfl
@[simp] theorem answer_hostPort (r : HostResult) (s : State) :
    (answer r s).hostPort = s.hostPort := rfl
@[simp] theorem answer_schedule (r : HostResult) (s : State) :
    (answer r s).schedule = s.schedule := rfl
@[simp] theorem answer_txAnswers (r : HostResult) (s : State) :
    (answer r s).txAnswers = s.txAnswers := rfl
@[simp] theorem answer_txWire (r : HostResult) (s : State) :
    (answer r s).txWire = s.txWire := rfl
@[simp] theorem answer_hostOut (r : HostResult) (s : State) :
    (answer r s).hostOut = s.hostOut ++ [r] := rfl
@[simp] theorem answer_draws (r : HostResult) (s : State) :
    (answer r s).draws = s.draws := rfl

@[simp] theorem raise_REC (e : BlockError) (s : State) :
    (raise e s).REC = s.REC := rfl
@[simp] theorem raise_BUF (e : BlockError) (s : State) :
    (raise e s).BUF = s.BUF := rfl
@[simp] theorem raise_MBOX (e : BlockError) (s : State) :
    (raise e s).MBOX = s.MBOX := rfl
@[simp] theorem raise_ST (e : BlockError) (s : State) :
    (raise e s).ST = s.ST := rfl
@[simp] theorem raise_ST_VALID (e : BlockError) (s : State) :
    (raise e s).ST_VALID = s.ST_VALID := rfl
@[simp] theorem raise_RX_DEAD (e : BlockError) (s : State) :
    (raise e s).RX_DEAD = s.RX_DEAD := rfl
@[simp] theorem raise_RX_ERR (e : BlockError) (s : State) :
    (raise e s).RX_ERR = s.RX_ERR := rfl
@[simp] theorem raise_STOP_REQ (e : BlockError) (s : State) :
    (raise e s).STOP_REQ = s.STOP_REQ := rfl
@[simp] theorem raise_STOP_BUDGET (e : BlockError) (s : State) :
    (raise e s).STOP_BUDGET = s.STOP_BUDGET := rfl
@[simp] theorem raise_RX_STOPPED (e : BlockError) (s : State) :
    (raise e s).RX_STOPPED = s.RX_STOPPED := rfl
@[simp] theorem raise_REFRESH_REPORTS_IDENTICAL (e : BlockError) (s : State) :
    (raise e s).REFRESH_REPORTS_IDENTICAL = s.REFRESH_REPORTS_IDENTICAL := rfl
@[simp] theorem raise_rxPort (e : BlockError) (s : State) :
    (raise e s).rxPort = s.rxPort := rfl
@[simp] theorem raise_hostPort (e : BlockError) (s : State) :
    (raise e s).hostPort = s.hostPort := rfl
@[simp] theorem raise_schedule (e : BlockError) (s : State) :
    (raise e s).schedule = s.schedule := rfl
@[simp] theorem raise_txAnswers (e : BlockError) (s : State) :
    (raise e s).txAnswers = s.txAnswers := rfl
@[simp] theorem raise_txWire (e : BlockError) (s : State) :
    (raise e s).txWire = s.txWire := rfl
@[simp] theorem raise_hostOut (e : BlockError) (s : State) :
    (raise e s).hostOut = s.hostOut ++ [.raised e] := rfl
@[simp] theorem raise_draws (e : BlockError) (s : State) :
    (raise e s).draws = s.draws := rfl

@[simp] theorem spendBudget_REC (s : State) :
    (spendBudget s).REC = s.REC := rfl
@[simp] theorem spendBudget_BUF (s : State) :
    (spendBudget s).BUF = s.BUF := rfl
@[simp] theorem spendBudget_MBOX (s : State) :
    (spendBudget s).MBOX = s.MBOX := rfl
@[simp] theorem spendBudget_ST (s : State) :
    (spendBudget s).ST = s.ST := rfl
@[simp] theorem spendBudget_ST_VALID (s : State) :
    (spendBudget s).ST_VALID = s.ST_VALID := rfl
@[simp] theorem spendBudget_RX_DEAD (s : State) :
    (spendBudget s).RX_DEAD = s.RX_DEAD := rfl
@[simp] theorem spendBudget_RX_ERR (s : State) :
    (spendBudget s).RX_ERR = s.RX_ERR := rfl
@[simp] theorem spendBudget_STOP_REQ (s : State) :
    (spendBudget s).STOP_REQ = s.STOP_REQ := rfl
@[simp] theorem spendBudget_STOP_BUDGET (s : State) :
    (spendBudget s).STOP_BUDGET = if s.STOP_REQ then s.STOP_BUDGET - 1 else s.STOP_BUDGET := rfl
@[simp] theorem spendBudget_RX_STOPPED (s : State) :
    (spendBudget s).RX_STOPPED = s.RX_STOPPED := rfl
@[simp] theorem spendBudget_REFRESH_REPORTS_IDENTICAL (s : State) :
    (spendBudget s).REFRESH_REPORTS_IDENTICAL = s.REFRESH_REPORTS_IDENTICAL := rfl
@[simp] theorem spendBudget_rxPort (s : State) :
    (spendBudget s).rxPort = s.rxPort := rfl
@[simp] theorem spendBudget_hostPort (s : State) :
    (spendBudget s).hostPort = s.hostPort := rfl
@[simp] theorem spendBudget_schedule (s : State) :
    (spendBudget s).schedule = s.schedule := rfl
@[simp] theorem spendBudget_txAnswers (s : State) :
    (spendBudget s).txAnswers = s.txAnswers := rfl
@[simp] theorem spendBudget_txWire (s : State) :
    (spendBudget s).txWire = s.txWire := rfl
@[simp] theorem spendBudget_hostOut (s : State) :
    (spendBudget s).hostOut = s.hostOut := rfl
@[simp] theorem spendBudget_draws (s : State) :
    (spendBudget s).draws = s.draws := rfl

@[simp] theorem push_REC (f : Four Byte) (s : State) :
    (push f s).REC = s.REC := rfl
@[simp] theorem push_BUF (f : Four Byte) (s : State) :
    (push f s).BUF = s.BUF := rfl
@[simp] theorem push_MBOX (f : Four Byte) (s : State) :
    (push f s).MBOX = some f := rfl
@[simp] theorem push_ST (f : Four Byte) (s : State) :
    (push f s).ST = s.ST := rfl
@[simp] theorem push_ST_VALID (f : Four Byte) (s : State) :
    (push f s).ST_VALID = s.ST_VALID := rfl
@[simp] theorem push_RX_DEAD (f : Four Byte) (s : State) :
    (push f s).RX_DEAD = s.RX_DEAD := rfl
@[simp] theorem push_RX_ERR (f : Four Byte) (s : State) :
    (push f s).RX_ERR = s.RX_ERR := rfl
@[simp] theorem push_STOP_REQ (f : Four Byte) (s : State) :
    (push f s).STOP_REQ = s.STOP_REQ := rfl
@[simp] theorem push_STOP_BUDGET (f : Four Byte) (s : State) :
    (push f s).STOP_BUDGET = s.STOP_BUDGET := rfl
@[simp] theorem push_RX_STOPPED (f : Four Byte) (s : State) :
    (push f s).RX_STOPPED = s.RX_STOPPED := rfl
@[simp] theorem push_REFRESH_REPORTS_IDENTICAL (f : Four Byte) (s : State) :
    (push f s).REFRESH_REPORTS_IDENTICAL = s.REFRESH_REPORTS_IDENTICAL := rfl
@[simp] theorem push_rxPort (f : Four Byte) (s : State) :
    (push f s).rxPort = s.rxPort := rfl
@[simp] theorem push_hostPort (f : Four Byte) (s : State) :
    (push f s).hostPort = s.hostPort := rfl
@[simp] theorem push_schedule (f : Four Byte) (s : State) :
    (push f s).schedule = s.schedule := rfl
@[simp] theorem push_txAnswers (f : Four Byte) (s : State) :
    (push f s).txAnswers = s.txAnswers := rfl
@[simp] theorem push_txWire (f : Four Byte) (s : State) :
    (push f s).txWire = s.txWire := rfl
@[simp] theorem push_hostOut (f : Four Byte) (s : State) :
    (push f s).hostOut = s.hostOut := rfl
@[simp] theorem push_draws (f : Four Byte) (s : State) :
    (push f s).draws = s.draws := rfl

@[simp] theorem requestStop_REC (s : State) :
    (requestStop s).REC = s.REC := rfl
@[simp] theorem requestStop_BUF (s : State) :
    (requestStop s).BUF = s.BUF := rfl
@[simp] theorem requestStop_MBOX (s : State) :
    (requestStop s).MBOX = s.MBOX := rfl
@[simp] theorem requestStop_ST (s : State) :
    (requestStop s).ST = s.ST := rfl
@[simp] theorem requestStop_ST_VALID (s : State) :
    (requestStop s).ST_VALID = s.ST_VALID := rfl
@[simp] theorem requestStop_RX_DEAD (s : State) :
    (requestStop s).RX_DEAD = s.RX_DEAD := rfl
@[simp] theorem requestStop_RX_ERR (s : State) :
    (requestStop s).RX_ERR = s.RX_ERR := rfl
@[simp] theorem requestStop_STOP_REQ (s : State) :
    (requestStop s).STOP_REQ = true := rfl
@[simp] theorem requestStop_STOP_BUDGET (s : State) :
    (requestStop s).STOP_BUDGET = (Config.stopBudget s.draws).val := rfl
@[simp] theorem requestStop_RX_STOPPED (s : State) :
    (requestStop s).RX_STOPPED = s.RX_STOPPED := rfl
@[simp] theorem requestStop_REFRESH_REPORTS_IDENTICAL (s : State) :
    (requestStop s).REFRESH_REPORTS_IDENTICAL = s.REFRESH_REPORTS_IDENTICAL := rfl
@[simp] theorem requestStop_rxPort (s : State) :
    (requestStop s).rxPort = s.rxPort := rfl
@[simp] theorem requestStop_hostPort (s : State) :
    (requestStop s).hostPort = s.hostPort := rfl
@[simp] theorem requestStop_schedule (s : State) :
    (requestStop s).schedule = s.schedule := rfl
@[simp] theorem requestStop_txAnswers (s : State) :
    (requestStop s).txAnswers = s.txAnswers := rfl
@[simp] theorem requestStop_txWire (s : State) :
    (requestStop s).txWire = s.txWire := rfl
@[simp] theorem requestStop_hostOut (s : State) :
    (requestStop s).hostOut = s.hostOut := rfl
@[simp] theorem requestStop_draws (s : State) :
    (requestStop s).draws = s.draws + 1 := rfl

@[simp] theorem resetBlock_REC (s : State) :
    (resetBlock s).REC = false := rfl
@[simp] theorem resetBlock_BUF (s : State) :
    (resetBlock s).BUF = [] := rfl
@[simp] theorem resetBlock_MBOX (s : State) :
    (resetBlock s).MBOX = none := rfl
@[simp] theorem resetBlock_ST (s : State) :
    (resetBlock s).ST = Config.initStatus s.draws := rfl
@[simp] theorem resetBlock_ST_VALID (s : State) :
    (resetBlock s).ST_VALID = false := rfl
@[simp] theorem resetBlock_RX_DEAD (s : State) :
    (resetBlock s).RX_DEAD = false := rfl
@[simp] theorem resetBlock_RX_ERR (s : State) :
    (resetBlock s).RX_ERR = none := rfl
@[simp] theorem resetBlock_STOP_REQ (s : State) :
    (resetBlock s).STOP_REQ = false := rfl
@[simp] theorem resetBlock_STOP_BUDGET (s : State) :
    (resetBlock s).STOP_BUDGET = 0 := rfl
@[simp] theorem resetBlock_RX_STOPPED (s : State) :
    (resetBlock s).RX_STOPPED = false := rfl
@[simp] theorem resetBlock_REFRESH_REPORTS_IDENTICAL (s : State) :
    (resetBlock s).REFRESH_REPORTS_IDENTICAL = s.REFRESH_REPORTS_IDENTICAL := rfl
@[simp] theorem resetBlock_rxPort (s : State) :
    (resetBlock s).rxPort = s.rxPort := rfl
@[simp] theorem resetBlock_hostPort (s : State) :
    (resetBlock s).hostPort = s.hostPort := rfl
@[simp] theorem resetBlock_schedule (s : State) :
    (resetBlock s).schedule = s.schedule := rfl
@[simp] theorem resetBlock_txAnswers (s : State) :
    (resetBlock s).txAnswers = s.txAnswers := rfl
@[simp] theorem resetBlock_txWire (s : State) :
    (resetBlock s).txWire = s.txWire := rfl
@[simp] theorem resetBlock_hostOut (s : State) :
    (resetBlock s).hostOut = s.hostOut := rfl
@[simp] theorem resetBlock_draws (s : State) :
    (resetBlock s).draws = s.draws + 1 := rfl

/-! The emission of a frame and the use of the provider's answer match on data: the fields they leave alone. -/

@[simp] theorem emit_REC (frame : List Byte) (s : State) : (emit frame s).REC = s.REC := by
  unfold emit; split <;> rfl
@[simp] theorem emit_BUF (frame : List Byte) (s : State) : (emit frame s).BUF = s.BUF := by
  unfold emit; split <;> rfl
@[simp] theorem emit_MBOX (frame : List Byte) (s : State) :
    (emit frame s).MBOX = (Four.ofList? frame).or s.MBOX := by
  unfold emit; split <;> simp [*]
@[simp] theorem emit_ST (frame : List Byte) (s : State) : (emit frame s).ST = s.ST := by
  unfold emit; split <;> rfl
@[simp] theorem emit_ST_VALID (frame : List Byte) (s : State) : (emit frame s).ST_VALID = s.ST_VALID := by
  unfold emit; split <;> rfl
@[simp] theorem emit_RX_DEAD (frame : List Byte) (s : State) : (emit frame s).RX_DEAD = s.RX_DEAD := by
  unfold emit; split <;> rfl
@[simp] theorem emit_RX_ERR (frame : List Byte) (s : State) : (emit frame s).RX_ERR = s.RX_ERR := by
  unfold emit; split <;> rfl
@[simp] theorem emit_STOP_REQ (frame : List Byte) (s : State) : (emit frame s).STOP_REQ = s.STOP_REQ := by
  unfold emit; split <;> rfl
@[simp] theorem emit_STOP_BUDGET (frame : List Byte) (s : State) : (emit frame s).STOP_BUDGET = s.STOP_BUDGET := by
  unfold emit; split <;> rfl
@[simp] theorem emit_RX_STOPPED (frame : List Byte) (s : State) : (emit frame s).RX_STOPPED = s.RX_STOPPED := by
  unfold emit; split <;> rfl
@[simp] theorem emit_REFRESH_REPORTS_IDENTICAL (frame : List Byte) (s : State) :
    (emit frame s).REFRESH_REPORTS_IDENTICAL = s.REFRESH_REPORTS_IDENTICAL := by
  unfold emit; split <;> rfl
@[simp] theorem emit_rxPort (frame : List Byte) (s : State) : (emit frame s).rxPort = s.rxPort := by
  unfold emit; split <;> rfl
@[simp] theorem emit_hostPort (frame : List Byte) (s : State) : (emit frame s).hostPort = s.hostPort := by
  unfold emit; split <;> rfl
@[simp] theorem emit_schedule (frame : List Byte) (s : State) : (emit frame s).schedule = s.schedule := by
  unfold emit; split <;> rfl
@[simp] theorem emit_txAnswers (frame : List Byte) (s : State) : (emit frame s).txAnswers = s.txAnswers := by
  unfold emit; split <;> rfl
@[simp] theorem emit_txWire (frame : List Byte) (s : State) : (emit frame s).txWire = s.txWire := by
  unfold emit; split <;> rfl
@[simp] theorem emit_hostOut (frame : List Byte) (s : State) : (emit frame s).hostOut = s.hostOut := by
  unfold emit; split <;> rfl
@[simp] theorem emit_draws (frame : List Byte) (s : State) : (emit frame s).draws = s.draws := by
  unfold emit; split <;> rfl

@[simp] theorem useAnswer_REC (s : State) : (useAnswer s).REC = s.REC := by
  unfold useAnswer; split <;> rfl
@[simp] theorem useAnswer_BUF (s : State) : (useAnswer s).BUF = s.BUF := by
  unfold useAnswer; split <;> rfl
@[simp] theorem useAnswer_MBOX (s : State) : (useAnswer s).MBOX = s.MBOX := by
  unfold useAnswer; split <;> rfl
@[simp] theorem useAnswer_ST (s : State) : (useAnswer s).ST = s.ST := by
  unfold useAnswer; split <;> rfl
@[simp] theorem useAnswer_ST_VALID (s : State) : (useAnswer s).ST_VALID = s.ST_VALID := by
  unfold useAnswer; split <;> rfl
@[simp] theorem useAnswer_RX_DEAD (s : State) : (useAnswer s).RX_DEAD = s.RX_DEAD := by
  unfold useAnswer; split <;> rfl
@[simp] theorem useAnswer_RX_ERR (s : State) : (useAnswer s).RX_ERR = s.RX_ERR := by
  unfold useAnswer; split <;> rfl
@[simp] theorem useAnswer_STOP_REQ (s : State) : (useAnswer s).STOP_REQ = s.STOP_REQ := by
  unfold useAnswer; split <;> rfl
@[simp] theorem useAnswer_STOP_BUDGET (s : State) : (useAnswer s).STOP_BUDGET = s.STOP_BUDGET := by
  unfold useAnswer; split <;> rfl
@[simp] theorem useAnswer_RX_STOPPED (s : State) : (useAnswer s).RX_STOPPED = s.RX_STOPPED := by
  unfold useAnswer; split <;> rfl
@[simp] theorem useAnswer_REFRESH_REPORTS_IDENTICAL (s : State) :
    (useAnswer s).REFRESH_REPORTS_IDENTICAL = s.REFRESH_REPORTS_IDENTICAL := by
  unfold useAnswer; split <;> rfl
@[simp] theorem useAnswer_rxPort (s : State) : (useAnswer s).rxPort = s.rxPort := by
  unfold useAnswer; split <;> rfl
@[simp] theorem useAnswer_hostPort (s : State) : (useAnswer s).hostPort = s.hostPort := by
  unfold useAnswer; split <;> rfl
@[simp] theorem useAnswer_schedule (s : State) : (useAnswer s).schedule = s.schedule := by
  unfold useAnswer; split <;> rfl
@[simp] theorem useAnswer_txWire (s : State) : (useAnswer s).txWire = s.txWire := by
  unfold useAnswer; split <;> rfl
@[simp] theorem useAnswer_hostOut (s : State) : (useAnswer s).hostOut = s.hostOut := by
  unfold useAnswer; split <;> rfl

end Sys2Proof.Machine
end

