-- ==== Sys2Proof/Laws/Ops.lean ====
section
/-! SUPPORT. For each shared operation, once, everything it can do. Later proofs cite these and do not unfold the
operation. -/

namespace Sys2Proof.Machine

theorem rxLive_iff (s : State) : s.rxLive = true ↔ s.RX_DEAD = false ∧ s.RX_STOPPED = false := by
  simp [State.rxLive]

theorem rxLive_eq_false_iff (s : State) :
    s.rxLive = false ↔ s.RX_DEAD = true ∨ s.RX_STOPPED = true := by
  cases hd : s.RX_DEAD <;> cases hs : s.RX_STOPPED <;> simp [State.rxLive, hd, hs]

theorem budgetSpent_iff (s : State) : s.budgetSpent = true ↔ s.STOP_REQ = true ∧ s.STOP_BUDGET = 0 := by
  simp [State.budgetSpent]

theorem budgetSpent_eq_false_iff (s : State) :
    s.budgetSpent = false ↔ s.STOP_REQ = false ∨ 0 < s.STOP_BUDGET := by
  cases h : s.STOP_REQ <;> simp [State.budgetSpent, h, Nat.pos_iff_ne_zero]

theorem byteEnabled_iff (s : State) :
    s.byteEnabled = true ↔ s.rxLive = true ∧ (s.STOP_REQ = false ∨ 0 < s.STOP_BUDGET) := by
  rw [← budgetSpent_eq_false_iff]; simp [State.byteEnabled]

/-- A byte step answers a next state exactly when a byte may be taken and the operation is selected. -/
theorem rxByteStep_eq_next_iff (selected : Bool) (effect : State → State) (s t : State) :
    rxByteStep selected effect s = .next t ↔
      s.byteEnabled = true ∧ selected = true ∧ t = effect (spendBudget s) := by
  unfold rxByteStep State.byteEnabled
  cases s.rxLive <;> cases s.budgetSpent <;> cases selected <;> simp [eq_comm]

/-- A byte step that may run does run. -/
theorem rxByteStep_of_enabled (effect : State → State) {s : State} (h : s.byteEnabled = true) :
    rxByteStep true effect s = .next (effect (spendBudget s)) :=
  (rxByteStep_eq_next_iff ..).2 ⟨h, rfl, rfl⟩

/-- RX_FAIL answers a next state exactly on a live agent. -/
theorem execRxFail_eq_next_iff (e : IoErr) (s t : State) :
    execRxFail e s = .next t ↔ s.rxLive = true ∧ t = { s with RX_DEAD := true, RX_ERR := some e } := by
  unfold execRxFail
  cases s.rxLive <;> simp [eq_comm]

/-- RX_HALT answers a next state exactly on a live agent with a stop request. -/
theorem execRxHalt_eq_next_iff (s t : State) :
    execRxHalt s = .next t ↔ s.haltEnabled = true ∧ t = { s with RX_STOPPED := true } := by
  unfold execRxHalt State.haltEnabled
  cases s.rxLive <;> cases s.STOP_REQ <;> simp [eq_comm]

/-- The provider always answers. -/
theorem providerAnswers (s : State) : ProviderAnswers s (providerAnswer s) (useAnswer s) := by
  unfold ProviderAnswers providerAnswer useAnswer
  cases h : s.txAnswers <;> simp

/-- All that a `TxWrite` can do (rule R160). -/
theorem txWrite_written (bytes : List Byte) (s : State) : TxWritten bytes s (txWrite bytes s) := by
  have h := providerAnswers s
  unfold txWrite
  cases ha : providerAnswer s with
  | ok => exact .inl ⟨useAnswer s, ha ▸ h, by simp [answer, answerResult, carried]⟩
  | ioError e sent => exact .inr ⟨e, sent, useAnswer s, ha ▸ h, by simp [answer, answerResult, carried]⟩

/-- What a `TxWrite` leaves alone, and that it adds a first part of the bytes and one result. -/
theorem TxWritten.frame {bytes : List Byte} {s t : State} (h : TxWritten bytes s t) :
    SameBlock s t ∧ t.rxPort = s.rxPort ∧ t.hostPort = s.hostPort ∧ t.schedule = s.schedule ∧
      t.REFRESH_REPORTS_IDENTICAL = s.REFRESH_REPORTS_IDENTICAL ∧
      ∃ front r, front <+: bytes ∧ t.txWire = s.txWire ++ front ∧ t.hostOut = s.hostOut ++ [r] := by
  obtain ⟨s', ⟨_, _, rfl⟩ | ⟨_, _, rfl⟩, rfl⟩ | ⟨e, sent, s', ⟨_, _, rfl⟩ | ⟨_, _, rfl⟩, rfl⟩ := h <;>
    simp only [SameBlock, and_self, true_and] <;>
    first
      | exact ⟨bytes, _, List.prefix_rfl, rfl, rfl⟩
      | exact ⟨_, _, List.take_prefix sent bytes, rfl, rfl⟩

/-- A send operation either refuses its index or writes the bytes of its command (rule R167). -/
theorem sendCommand_cases (c : Command) (s : State) :
    (encodeCommand c = none ∧ sendCommand c s = raise .invalidButtonIndex s) ∨
      ∃ bytes, encodeCommand c = some bytes ∧ TxWritten bytes s (sendCommand c s) := by
  unfold sendCommand
  cases h : encodeCommand c with
  | none => exact .inl ⟨rfl, rfl⟩
  | some bytes => exact .inr ⟨bytes, rfl, txWrite_written bytes s⟩

/-- REFRESH on a taken frame: the error raised, or the register replaced whole (rule R132). -/
theorem applyFrame_cases (f : Four Byte) (s : State) :
    (∃ e, decodeFour f = .error e ∧ applyFrame f s = raise e { s with MBOX := none }) ∨
      ∃ v, decodeFour f = .ok v ∧
        applyFrame f s =
          answer (.applied (!s.ST_VALID || v != s.ST || s.REFRESH_REPORTS_IDENTICAL))
            { s with MBOX := none, ST := v, ST_VALID := true } := by
  unfold applyFrame
  cases h : decodeFour f with
  | error e => exact .inl ⟨e, rfl, rfl⟩
  | ok v => exact .inr ⟨v, rfl, rfl⟩

/-- Four bytes have length 4, and nothing else is taken for a frame. -/
theorem ofList?_eq_some_iff (bytes : List Byte) (f : Four Byte) :
    Four.ofList? bytes = some f ↔ bytes = f.toList := by
  unfold Four.ofList?
  split
  · cases f; simp [Four.toList]
  · rename_i h
    constructor
    · simp
    · intro hb; exact absurd hb (h _ _ _ _)

theorem ofList?_toList (f : Four Byte) : Four.ofList? f.toList = some f :=
  (ofList?_eq_some_iff ..).2 rfl

theorem ofList?_of_length_ne {bytes : List Byte} (h : bytes.length ≠ 4) : Four.ofList? bytes = none := by
  unfold Four.ofList?
  split
  · simp at h
  · rfl

end Sys2Proof.Machine
end

