-- ==== Sys2Proof/Laws/Detector.lean ====
section
/-! SUPPORT. The frame detector byte by byte, and the RX agent's byte steps as the detector's. -/

namespace Sys2Proof.Machine

theorem Detector.next_start (d : Detector) : d.next 0x53#8 = (⟨true, []⟩, none) := by
  simp [Detector.next]

theorem Detector.next_idle {b : Byte} (h : b ≠ 0x53#8) (buffer : List Byte) :
    (Detector.mk false buffer).next b = (⟨false, buffer⟩, none) := by
  simp [Detector.next, h]

theorem Detector.next_stop (buffer : List Byte) :
    (Detector.mk true buffer).next 0x0A#8 = (⟨false, []⟩, some buffer) := by
  simp [Detector.next]

theorem Detector.next_data {b : Byte} (h : b ≠ 0x53#8) (h' : b ≠ 0x0A#8) (buffer : List Byte) :
    (Detector.mk true buffer).next b = (⟨true, buffer ++ [b]⟩, none) := by
  simp [Detector.next, h, h']

/-- Feeding in two parts. -/
theorem Detector.feed_append (d : Detector) (xs ys : List Byte) :
    d.feed (xs ++ ys) =
      (((d.feed xs).1.feed ys).1, (d.feed xs).2 ++ ((d.feed xs).1.feed ys).2) := by
  induction xs generalizing d with
  | nil => simp [Detector.feed]
  | cons x xs ih => simp [Detector.feed, ih]

/-- The frames emitted by the first byte come before the others in the choice of the latest. -/
theorem latestOf_toList_append (old : Option (Four Byte)) (first : Option (List Byte))
    (frames : List (List Byte)) :
    latestOf old (first.toList ++ frames) = latestOf ((first.bind Four.ofList?).or old) frames := by
  cases first with
  | none => simp
  | some f =>
    unfold latestOf
    cases hf : Four.ofList? f with
    | none => simp [hf]
    | some q =>
      simp only [Option.toList_some, List.singleton_append, List.filterMap_cons, hf,
        List.getLast?_cons, Option.bind_some, Option.some_or]
      cases (frames.filterMap Four.ofList?).getLast? <;> simp

/-- A byte that the RX agent may take does to the state what it does to the detector. -/
theorem exec_decodeRxByte (b : Byte) {s : State} (h : s.byteEnabled = true) :
    exec (decodeRxByte s.REC b) s = .next { s with
      REC := (s.detector.next b).1.recording
      BUF := (s.detector.next b).1.buffer
      MBOX := ((s.detector.next b).2.bind Four.ofList?).or s.MBOX
      STOP_BUDGET := if s.STOP_REQ then s.STOP_BUDGET - 1 else s.STOP_BUDGET } := by
  have hd : s.detector = ⟨s.REC, s.BUF⟩ := rfl
  obtain ⟨rfl, hi⟩ | ⟨hr, hb, hi⟩ | ⟨hr, rfl, hi⟩ | ⟨hr, hb, hb', hi⟩ := decodeRxByte_cases s.REC b
  · rw [hi, Detector.next_start]
    simp only [exec, execRxStart, rxByteStep_of_enabled _ h]
    rfl
  · have hn : s.detector.next b = (⟨s.REC, s.BUF⟩, none) := by rw [hd, hr, Detector.next_idle hb]
    rw [hn, hi]
    simp only [exec, execRxIdleDrop, hi, beq_self_eq_true, rxByteStep_of_enabled _ h]
    rfl
  · have hn : s.detector.next 0x0A#8 = (⟨false, []⟩, some s.BUF) := by
      rw [hd, hr, Detector.next_stop]
    rw [hn, hi]
    simp only [exec, execRxStopEmit, hr, rxByteStep_of_enabled _ h]
    unfold emit
    cases hf : Four.ofList? s.BUF <;> simp [spendBudget, push, hf]
  · have hn : s.detector.next b = (⟨s.REC, s.BUF ++ [b]⟩, none) := by
      rw [hd, hr, Detector.next_data hb hb']
    rw [hn, hi]
    simp only [exec, execRxDataAppend, hi, beq_self_eq_true, rxByteStep_of_enabled _ h]
    rfl

end Sys2Proof.Machine
end

