-- ==== Sys2Proof/Laws/Exec.lean ====
section
/-! SUPPORT. Said once: everything an operation can do when it answers a next state, and everything a step can do.
The whole-machine claims are case analyses over these. -/

namespace Sys2Proof.Machine

/-- An operation runs exactly where its row's condition holds. -/
theorem exec_eq_next_imp_enabled {i : Instr} {s t : State} (h : exec i s = .next t) :
    enabled i s = true := by
  cases i with
  | rxStart | rxIdleDrop _ | rxStopEmit | rxDataAppend _ =>
    simp only [exec, execRxStart, execRxIdleDrop, execRxStopEmit, execRxDataAppend,
      rxByteStep_eq_next_iff] at h
    simp [enabled, h.1, h.2.1]
  | rxFail e => exact ((execRxFail_eq_next_iff ..).1 h).1
  | rxHalt => exact ((execRxHalt_eq_next_iff ..).1 h).1
  | stop | rxStatus | decode _ | refresh | snapshot | enable | reset | disable | setAnswered _ _
  | blockReset => rfl

/-- An enabled byte operation is the one that `REC` and its byte select. -/
theorem eq_decodeRxByte_of_enabled {i : Instr} {s : State} (h : enabled i s = true) {recording : Bool}
    (hr : readWhere (.rx recording) i = true) :
    s.byteEnabled = true ∧ ∃ b, i = decodeRxByte s.REC b := by
  cases i <;> simp only [readWhere, Bool.false_eq_true] at hr <;>
    simp only [enabled, Bool.and_eq_true, beq_iff_eq] at h
  · exact ⟨h, 0x53#8, (decodeRxByte_start _).symm⟩
  · exact ⟨h.1, _, h.2.symm⟩
  · exact ⟨h.1, 0x0A#8, by rw [h.2, decodeRxByte_stop]⟩
  · exact ⟨h.1, _, h.2.symm⟩

/-- What a byte does to the state through the detector (`exec_decodeRxByte`). -/
def afterByte (b : Byte) (s : State) : State := { s with
  REC := (s.detector.next b).1.recording
  BUF := (s.detector.next b).1.buffer
  MBOX := ((s.detector.next b).2.bind Four.ofList?).or s.MBOX
  STOP_BUDGET := if s.STOP_REQ then s.STOP_BUDGET - 1 else s.STOP_BUDGET }

/-- Everything an operation can do. -/
inductive Effect (s : State) : Instr → State → Prop where
  | byte (b : Byte) (h : s.byteEnabled = true) : Effect s (decodeRxByte s.REC b) (afterByte b s)
  | fail (e : IoErr) (h : s.rxLive = true) :
      Effect s (.rxFail e) { s with RX_DEAD := true, RX_ERR := some e }
  | halt (h : s.haltEnabled = true) : Effect s .rxHalt { s with RX_STOPPED := true }
  | stop (hd : s.RX_DEAD = false) (hs : s.RX_STOPPED = false) (hr : s.STOP_REQ = false) :
      Effect s .stop (answer .ok (requestStop s))
  | result (i : Instr) (hi : hostOp i = true) (r : HostResult) : Effect s i (answer r s)
  | refused (f : Four Byte) (e : BlockError) (hf : s.MBOX = some f) (he : decodeFour f = .error e) :
      Effect s .refresh (raise e { s with MBOX := none })
  | applied (f : Four Byte) (v : Four ButtonStatus) (changed : Bool) (hf : s.MBOX = some f)
      (hv : decodeFour f = .ok v) :
      Effect s .refresh (answer (.applied changed) { s with MBOX := none, ST := v, ST_VALID := true })
  | sent (c : Command) (bytes : List Byte) (t : State) (hc : encodeCommand c = some bytes)
      (ht : TxWritten bytes s t) : Effect s c.instr t
  | blockReset : Effect s .blockReset (resetBlock s)

theorem sendCommand_effect (c : Command) (s : State) : Effect s c.instr (sendCommand c s) := by
  obtain ⟨_, h⟩ | ⟨bytes, hc, h⟩ := sendCommand_cases c s
  · rw [h]; exact .result _ (by cases c <;> rfl) _
  · exact .sent c bytes _ hc h

/-- An operation that answers a next state has one of the effects. -/
theorem exec_effect {i : Instr} {s t : State} (h : exec i s = .next t) : Effect s i t := by
  have byteCase (hr : ∃ recording, readWhere (.rx recording) i = true) : Effect s i t := by
    obtain ⟨recording, hr⟩ := hr
    obtain ⟨hb, b, rfl⟩ := eq_decodeRxByte_of_enabled (exec_eq_next_imp_enabled h) hr
    rw [exec_decodeRxByte b hb] at h
    cases h
    exact .byte b hb
  cases i with
  | rxStart => exact byteCase ⟨true, rfl⟩
  | rxIdleDrop b => exact byteCase ⟨false, rfl⟩
  | rxStopEmit => exact byteCase ⟨true, rfl⟩
  | rxDataAppend b => exact byteCase ⟨true, rfl⟩
  | rxFail e =>
    obtain ⟨hl, rfl⟩ := (execRxFail_eq_next_iff ..).1 h
    exact .fail e hl
  | rxHalt =>
    obtain ⟨hl, rfl⟩ := (execRxHalt_eq_next_iff ..).1 h
    exact .halt hl
  | stop =>
    cases h
    cases hd : s.RX_DEAD <;> cases hs : s.RX_STOPPED <;> cases hr : s.STOP_REQ <;>
      first | exact .stop hd hs hr | exact .result _ rfl _
  | rxStatus => cases h; exact .result _ rfl _
  | decode frame =>
    simp only [exec, execDecode] at h
    split at h <;> cases h <;> exact .result _ rfl _
  | refresh =>
    simp only [exec, execRefresh] at h
    split at h <;> cases h
    · exact .result _ rfl _
    · obtain ⟨e, he, h⟩ | ⟨v, hv, h⟩ := applyFrame_cases _ s <;> rw [h]
      · exact .refused _ e ‹_› he
      · exact .applied _ v _ ‹_› hv
  | snapshot => cases h; exact .result _ rfl _
  | enable => cases h; exact sendCommand_effect .enable s
  | reset => cases h; exact sendCommand_effect .reset s
  | disable => cases h; exact sendCommand_effect .disable s
  | setAnswered idx status => cases h; exact sendCommand_effect (.setAnswered idx status) s
  | blockReset => cases h; exact .blockReset

/-- Everything the fetch can do: the block and its outputs are untouched, a turn is used up unless none was left,
and an operation that is selected is enabled. -/
theorem fetch_spec (s : State) :
    SameBlock s (fetch s).2 ∧ (fetch s).2.txWire = s.txWire ∧ (fetch s).2.hostOut = s.hostOut ∧
      (fetch s).2.draws = s.draws ∧ (fetch s).2.txAnswers = s.txAnswers ∧
      (fetch s).2.schedule = s.schedule.tail ∧
      ∀ i, (fetch s).1 = some i →
        (∃ b, i = decodeRxByte s.REC b ∧ s.byteEnabled = true ∧
          s.rxPort = .byte b :: (fetch s).2.rxPort) ∨
        (∃ e, i = .rxFail e ∧ s.rxLive = true ∧ s.rxPort = .fail e :: (fetch s).2.rxPort) ∨
        ((fetch s).2.rxPort = s.rxPort ∧
          ((i = .rxHalt ∧ s.haltEnabled = true) ∨ hostOp i = true ∨
            (i = .blockReset ∧ s.schedule.head? = some .blockReset))) := by
  unfold fetch
  cases hs : s.schedule with
  | nil => simp [SameBlock, hs]
  | cons t turns =>
    cases t with
    | rx =>
      simp only [agentOperation]
      cases hp : s.rxPort with
      | nil => simp [SameBlock]
      | cons ev evs =>
        simp only
        split
        · rename_i h
          cases ev with
          | byte b =>
            refine ⟨by simp [SameBlock], rfl, rfl, rfl, rfl, rfl, fun i hi => .inl ⟨b, ?_, h, rfl⟩⟩
            exact (Option.some.inj hi).symm
          | fail e =>
            refine ⟨by simp [SameBlock], rfl, rfl, rfl, rfl, rfl, fun i hi =>
              .inr (.inl ⟨e, ?_, h, rfl⟩)⟩
            exact (Option.some.inj hi).symm
        · simp [SameBlock]
    | halt =>
      simp only [agentOperation]
      split
      · rename_i h
        exact ⟨by simp [SameBlock], rfl, rfl, rfl, rfl, rfl, fun i hi =>
          .inr (.inr ⟨rfl, .inl ⟨(Option.some.inj hi).symm, h⟩⟩)⟩
      · simp [SameBlock]
    | host =>
      simp only [agentOperation]
      cases hp : s.hostPort with
      | nil => simp [SameBlock]
      | cons req reqs =>
        have : hostOp (hostReqInstr req) = true := by cases req <;> rfl
        simp [SameBlock, this]
    | blockReset => simp [SameBlock, agentOperation]

end Sys2Proof.Machine
end

