-- ==== Sys2Proof/Laws/PerInstr.lean ====
section
/-! SUPPORT. Per operation: its encoding has the length, the match and the mask of its row of opcode_table.json. -/

namespace Sys2Proof.Laws.TableRow

/-- A row's match, mask and length_bytes; none for a row without bytes. -/
def row : Instr → Option (Byte × Byte × Nat)
  | .rxStart => some (0x53#8, 0xFF#8, 1)
  | .rxIdleDrop _ => some (0x00#8, 0x00#8, 1)
  | .rxStopEmit => some (0x0A#8, 0xFF#8, 1)
  | .rxDataAppend _ => some (0x00#8, 0x00#8, 1)
  | .enable => some (0x01#8, 0xFF#8, 1)
  | .reset => some (0x02#8, 0xFF#8, 1)
  | .disable => some (0x03#8, 0xFF#8, 1)
  | .setAnswered _ _ => some (0x04#8, 0xFF#8, 3)
  | .rxFail _ | .rxHalt | .stop | .rxStatus | .decode _ | .refresh | .snapshot | .blockReset => none

/-- The encoding is of the row's length and its first byte fits the row's match under its mask. -/
def Statement (i : Instr) : Prop :=
  ∀ bytes, encode i = some bytes →
    ∃ m mask len, row i = some (m, mask, len) ∧ bytes.length = len ∧
      ∃ b rest, bytes = b :: rest ∧ b &&& mask = m

theorem rxStart : Statement .rxStart := by
  intro bytes h; cases h; exact ⟨_, _, _, rfl, rfl, _, _, rfl, rfl⟩

theorem rxIdleDrop (b : Byte) : Statement (.rxIdleDrop b) := by
  intro bytes h; cases h; exact ⟨_, _, _, rfl, rfl, _, _, rfl, BitVec.and_zero⟩

theorem rxStopEmit : Statement .rxStopEmit := by
  intro bytes h; cases h; exact ⟨_, _, _, rfl, rfl, _, _, rfl, rfl⟩

theorem rxDataAppend (b : Byte) : Statement (.rxDataAppend b) := by
  intro bytes h; cases h; exact ⟨_, _, _, rfl, rfl, _, _, rfl, BitVec.and_zero⟩

theorem rxFail (e : IoErr) : Statement (.rxFail e) := by intro bytes h; cases h

theorem rxHalt : Statement .rxHalt := by intro bytes h; cases h

theorem stop : Statement .stop := by intro bytes h; cases h

theorem rxStatus : Statement .rxStatus := by intro bytes h; cases h

theorem decode (frame : List Byte) : Statement (.decode frame) := by intro bytes h; cases h

theorem refresh : Statement .refresh := by intro bytes h; cases h

theorem snapshot : Statement .snapshot := by intro bytes h; cases h

theorem enable : Statement .enable := by
  intro bytes h; cases h; exact ⟨_, _, _, rfl, rfl, _, _, rfl, rfl⟩

theorem reset : Statement .reset := by
  intro bytes h; cases h; exact ⟨_, _, _, rfl, rfl, _, _, rfl, rfl⟩

theorem disable : Statement .disable := by
  intro bytes h; cases h; exact ⟨_, _, _, rfl, rfl, _, _, rfl, rfl⟩

theorem setAnswered (idx status : Byte) : Statement (.setAnswered idx status) := by
  intro bytes h
  simp only [encode, encodeCommand] at h
  split at h <;> cases h
  exact ⟨_, _, _, rfl, rfl, _, _, rfl, rfl⟩

theorem blockReset : Statement .blockReset := by intro bytes h; cases h

end Sys2Proof.Laws.TableRow
end

