-- ==== Sys2Proof/Laws/Step.lean ====
section
/-! SUPPORT. What a step does with the operation that the fetch selects, and runs of several steps. -/

namespace Sys2Proof.Machine

/-- A step that answers a next state runs the operation of its fetch, or has none to run. -/
theorem step_cases {s t : State} (h : step s = .next t) :
    ((fetch s).1 = none ∧ t = (fetch s).2) ∨
      ∃ i, (fetch s).1 = some i ∧ exec i (fetch s).2 = .next t := by
  unfold step at h
  split at h
  · rename_i i u hf
    exact .inr ⟨i, by rw [hf], by rw [hf]; exact h⟩
  · rename_i u hf
    cases h
    exact .inl ⟨by rw [hf], by rw [hf]⟩

/-- Where the fetch selects nothing, nothing leaves the RX port. -/
theorem fetch_none_rxPort {s : State} (h : (fetch s).1 = none) : (fetch s).2.rxPort = s.rxPort := by
  unfold fetch at h ⊢
  cases hs : s.schedule with
  | nil => rfl
  | cons t turns =>
    rw [hs] at h
    cases t <;> simp only [agentOperation] at h ⊢ <;> (repeat' split) <;> simp_all

theorem run_succ_of_next {s t : State} (n : Nat) (h : step s = .next t) : run (n + 1) s = run n t := by
  rw [run, h]

theorem exists_step_of_run {n : Nat} {s t : State} (h : run (n + 1) s = .next t) :
    ∃ u, step s = .next u ∧ run n u = .next t := by
  unfold run at h
  split at h
  · exact ⟨_, ‹_›, h⟩
  · cases h
  · cases h

theorem run_add_of_next {m : Nat} {s t : State} (n : Nat) (h : run m s = .next t) :
    run (m + n) s = run n t := by
  induction m generalizing s with
  | zero =>
    cases h
    rw [Nat.zero_add]
  | succ m ih =>
    obtain ⟨u, hu, hr⟩ := exists_step_of_run h
    rw [Nat.succ_add, run_succ_of_next _ hu, ih hr]

theorem core_run_of_next (M : Host.Core) (n : Nat) {s t : M.State} (h : M.step s = .next t) :
    M.run (n + 1) s = M.run n t := by
  rw [Host.Core.run, h]

theorem core_run_of_fault (M : Host.Core) (n : Nat) {s : M.State} {r : M.Fault}
    (h : M.step s = .fault r) : M.run (n + 1) s = .fault r := by
  rw [Host.Core.run, h]

theorem core_run_of_refused (M : Host.Core) (n : Nat) {s : M.State} {r : M.Refusal}
    (h : M.step s = .refused r) : M.run (n + 1) s = .refused r := by
  rw [Host.Core.run, h]

/-- The runs of Safety.lean are the host's runs of the machine. -/
theorem run_eq_core_run (n : Nat) (s : State) : run n s = Host.Core.run Sys2Proof.core n s := by
  induction n generalizing s with
  | zero => rfl
  | succ n ih =>
    cases hs : step s with
    | next t => exact (run_succ_of_next n hs).trans ((ih t).trans (core_run_of_next core n hs).symm)
    | fault r =>
      exact Eq.trans (show run (n + 1) s = _ by simp only [run, hs]; rfl) (core_run_of_fault core n hs).symm
    | refused r =>
      exact Eq.trans (show run (n + 1) s = _ by simp only [run, hs]; rfl) (core_run_of_refused core n hs).symm

end Sys2Proof.Machine
end

