-- ==== Sys2Proof/Tests/Slice0.lean ====
section
/-! SUPPORT. Tests. Every expected value is from the spec: the patterns of opcode_table.json and 30_encoding.md, the
vectors of 95_test_vectors.md (named by their ids), or the worked example of a rule; the rejections of the TX stream's
reader are the model's (log entries 13, 15). Then, for each statement
with hypotheses, a witness that meets them. -/

namespace Sys2Proof.Tests

open Sys2Proof Sys2Proof.Machine

/-- A failure value. -/
def lost : IoErr := ⟨0, .inl rfl⟩

/-! ### Ill-formed operations are refused -/

theorem test_illformed_idleDrop_of_start : (Instr.rxIdleDrop 0x53#8).wellFormed = false := by decide
theorem test_illformed_dataAppend_of_start : (Instr.rxDataAppend 0x53#8).wellFormed = false := by decide
theorem test_illformed_dataAppend_of_stop : (Instr.rxDataAppend 0x0A#8).wellFormed = false := by decide
theorem test_wellformed_idleDrop_of_stop : (Instr.rxIdleDrop 0x0A#8).wellFormed = true := by decide

/-! ### Words written out from the encodings -/

theorem test_word_rxStart : decode (.rx false) [0b01010011#8] = .ok (.rxStart, []) := by decide
theorem test_word_rxStart_recording : decode (.rx true) [0b01010011#8] = .ok (.rxStart, []) := by decide
theorem test_word_rxIdleDrop : decode (.rx false) [0b11000010#8] = .ok (.rxIdleDrop 0xC2#8, []) := by decide
theorem test_word_rxIdleDrop_stop : decode (.rx false) [0b00001010#8] = .ok (.rxIdleDrop 0x0A#8, []) := by
  decide
theorem test_word_rxStopEmit : decode (.rx true) [0b00001010#8] = .ok (.rxStopEmit, []) := by decide
theorem test_word_rxDataAppend : decode (.rx true) [0b11111111#8] = .ok (.rxDataAppend 0xFF#8, []) := by decide
theorem test_word_enable : decode .tx [0b00000001#8] = .ok (.enable, []) := by decide
theorem test_word_reset : decode .tx [0b00000010#8] = .ok (.reset, []) := by decide
theorem test_word_disable : decode .tx [0b00000011#8] = .ok (.disable, []) := by decide
theorem test_word_setAnswered :
    decode .tx [0b00000100#8, 0b00000011#8, 0b11111111#8] = .ok (.setAnswered 0x03#8 0xFF#8, []) := by decide

/-- Rule R42's table: the operations that have no bytes come from a port transaction. -/
theorem test_transactions :
    rxEventInstr true (.fail lost) = .rxFail lost ∧ hostReqInstr (.decode [0x01#8]) = .decode [0x01#8] ∧
      hostReqInstr .refresh = .refresh ∧ hostReqInstr .snapshot = .snapshot ∧ hostReqInstr .stop = .stop ∧
      hostReqInstr .rxStatus = .rxStatus := by decide

theorem test_reject_opcode_zero : decode .tx [0x00#8] = .error (.undefinedOpcode 0x00#8) := by decide
theorem test_reject_opcode_five : decode .tx [0x05#8] = .error (.undefinedOpcode 0x05#8) := by decide
theorem test_reject_index_four :
    decode .tx [0x04#8, 0x04#8, 0x01#8] = .error (.buttonIndexOutOfRange 0x04#8) := by decide
theorem test_reject_truncated : decode .tx [0x04#8, 0x02#8] = .error .truncatedCommand := by decide
theorem test_reject_no_byte : decode (.rx true) [] = .error .noByte := by decide

/-- Log entry 15: a first part of a failed SET_ANSWERED before its retry (rules R160, R209). -/
theorem test_split_failed_prefix :
    splitCommands [0x04#8, 0x04#8, 0x02#8, 0x01#8] = .error (.buttonIndexOutOfRange 0x04#8) ∧
      splitCommands [0x04#8, 0x01#8, 0x01#8] = .ok [.setAnswered 0x01#8 0x01#8] := by decide
/-- Rule R83 on the TX trace of program P3. -/
theorem test_split_trace_P3 :
    splitCommands [0x01#8, 0x04#8, 0x03#8, 0x00#8] = .ok [.enable, .setAnswered 0x03#8 0x00#8] := by decide

theorem test_tableWord_rxStart : decodeTableWord 8 0x53 = some .rxStart := by decide
theorem test_tableWord_rxStopEmit : decodeTableWord 8 0x0A = some .rxStopEmit := by decide
theorem test_tableWord_payload : decodeTableWord 8 0xC2 = some (.rxDataAppend 0xC2#8) := by decide
theorem test_tableWord_setAnswered :
    decodeTableWord 24 0xFF0304 = some (.setAnswered 0x03#8 0xFF#8) := by decide
theorem test_tableWord_setAnswered_short :
    decodeTableWord 8 0x04 = some (.setAnswered 0x00#8 0x00#8) := by decide

/-! ### One operation at a time -/

/-- The next state of an outcome. -/
def nextOf : Host.Outcome State Fault Refusal → Option State
  | .next t => some t
  | .fault _ | .refused _ => none

/-- `{0,0,Dis}` for each button. -/
def allDisabled : Four ButtonStatus :=
  let b : ButtonStatus := ⟨false, false, .disabled⟩
  ⟨b, b, b, b⟩

/-- The reset state with a known `ST`. -/
def base : State := { State.reset with ST := allDisabled }

/-- Rule R101's example. -/
theorem test_rxStart_restarts :
    (nextOf (exec .rxStart { base with REC := true, BUF := [0xAA#8] })).map (fun t => (t.REC, t.BUF)) =
      some (true, []) := by decide
/-- X3. -/
theorem test_rxStart_from_idle :
    (nextOf (exec .rxStart base)).map (fun t => (t.REC, t.BUF)) = some (true, []) := by decide
/-- X1. -/
theorem test_rxIdleDrop_stray_stop :
    (nextOf (exec (.rxIdleDrop 0x0A#8) base)).map (fun t => (t.REC, t.BUF, t.MBOX)) =
      some (false, [], none) := by decide
/-- Rule R103's example. -/
theorem test_rxStopEmit_pushes :
    (nextOf (exec .rxStopEmit { base with REC := true, BUF := [0xC2#8, 0x01#8, 0x02#8, 0x03#8] })).map
        (fun t => (t.REC, t.BUF, t.MBOX)) =
      some (false, [], some ⟨0xC2#8, 0x01#8, 0x02#8, 0x03#8⟩) := by decide
/-- X11: a dropped frame does not clear the slot. -/
theorem test_rxStopEmit_drops_short_frame :
    (nextOf (exec .rxStopEmit
        { base with REC := true, BUF := [0x02#8, 0x02#8], MBOX := some ⟨1#8, 1#8, 1#8, 1#8⟩ })).map
        (fun t => (t.REC, t.MBOX)) = some (false, some ⟨1#8, 1#8, 1#8, 1#8⟩) := by decide
/-- Rule R104's example. -/
theorem test_rxDataAppend_at_end :
    (nextOf (exec (.rxDataAppend 0x01#8) { base with REC := true, BUF := [0xC2#8] })).map (·.BUF) =
      some [0xC2#8, 0x01#8] := by decide
/-- Rule R100: the budget of a stopping agent is spent by one. -/
theorem test_rxDataAppend_spends_budget :
    (nextOf (exec (.rxDataAppend 0x01#8) { base with REC := true, STOP_REQ := true, STOP_BUDGET := 6 })).map
        (·.STOP_BUDGET) = some 5 := by decide
/-- X16. -/
theorem test_rxFail_keeps_partial_frame :
    (nextOf (exec (.rxFail lost) { base with REC := true, BUF := [0x01#8] })).map
        (fun t => (t.REC, t.BUF, t.RX_DEAD, t.RX_ERR)) =
      some (true, [0x01#8], true, some lost) := by decide
/-- Rule R108's example. -/
theorem test_rxHalt_leaves_budget :
    (nextOf (exec .rxHalt { base with STOP_REQ := true, STOP_BUDGET := 2 })).map
        (fun t => (t.RX_STOPPED, t.STOP_BUDGET)) = some (true, 2) := by decide
/-- S4. -/
theorem test_stop_requests :
    (nextOf (exec .stop base)).map (fun t => (t.STOP_REQ, t.RX_STOPPED, t.hostOut)) =
      some (true, false, [.ok]) := by decide
/-- S8: STOP on a dead reader has no effect. -/
theorem test_stop_on_dead_reader :
    (nextOf (exec .stop { base with RX_DEAD := true, RX_ERR := some lost })).map
        (fun t => (t.STOP_REQ, t.hostOut)) = some (false, [.ok]) := by decide
/-- S3. -/
theorem test_rxStatus_dead :
    (nextOf (exec .rxStatus { base with RX_DEAD := true, RX_ERR := some lost })).map (·.hostOut) =
      some [.rxStatus true (some lost) false] := by decide
/-- DC7. -/
theorem test_decode_four_lanes :
    (nextOf (exec (.decode [0xC2#8, 0x01#8, 0x02#8, 0x03#8]) base)).map (·.hostOut) =
      some [.decoded ⟨⟨true, true, .enabled⟩, ⟨false, false, .disabled⟩, ⟨false, false, .enabled⟩,
        ⟨false, false, .answered⟩⟩] := by decide
/-- DC5: the lowest invalid index is reported. -/
theorem test_decode_lowest_error :
    (nextOf (exec (.decode [0x01#8, 0x05#8, 0x02#8, 0x00#8]) base)).map (·.hostOut) =
      some [.raised (.invalidState 5#4)] := by decide
/-- F3, and F5: an identical value with the configuration Boolean `false`. -/
theorem test_refresh_applies :
    (nextOf (exec .refresh { base with MBOX := some ⟨0xC2#8, 0x01#8, 0x02#8, 0x03#8⟩ })).map
        (fun t => (t.MBOX, t.ST_VALID, t.ST.b0, t.hostOut)) =
      some (none, true, ⟨true, true, .enabled⟩, [.applied true]) ∧
    (nextOf (exec .refresh { base with
        ST_VALID := true, MBOX := some ⟨1#8, 1#8, 1#8, 1#8⟩, REFRESH_REPORTS_IDENTICAL := false })).map
        (·.hostOut) = some [.applied false] := by decide
/-- F7: the old status stays, the frame is lost. -/
theorem test_refresh_raises :
    (nextOf (exec .refresh { base with ST_VALID := true, MBOX := some ⟨0x00#8, 0x02#8, 0x02#8, 0x02#8⟩ })).map
        (fun t => (t.MBOX, t.ST, t.ST_VALID, t.hostOut)) =
      some (none, allDisabled, true, [.raised (.invalidState 0#4)]) := by decide
/-- Rule R133's example, on a known register. -/
theorem test_snapshot :
    (nextOf (exec .snapshot { base with ST_VALID := true })).map (·.hostOut) =
      some [.snapshot true allDisabled] := by decide
/-- E1. -/
theorem test_enable :
    (nextOf (exec .enable { base with txAnswers := [.ok] })).map (fun t => (t.txWire, t.hostOut)) =
      some ([0x01#8], [.ok]) := by decide
/-- E10, with nothing of the command on the wire. -/
theorem test_enable_fails :
    (nextOf (exec .enable { base with txAnswers := [.ioError lost 0] })).map
        (fun t => (t.txWire, t.hostOut)) = some ([], [.raised (.writeIoError lost)]) := by decide
/-- E14: a send after the reader has stopped. -/
theorem test_reset_after_stop :
    (nextOf (exec .reset { base with STOP_REQ := true, RX_STOPPED := true, txAnswers := [.ok] })).map
        (fun t => (t.txWire, t.hostOut)) = some ([0x02#8], [.ok]) := by decide
/-- E13: a send after the reader has died. -/
theorem test_disable_after_fail :
    (nextOf (exec .disable { base with RX_DEAD := true, RX_ERR := some lost, txAnswers := [.ok] })).map
        (fun t => (t.txWire, t.hostOut)) = some ([0x03#8], [.ok]) := by decide
/-- E11, with two of the three bytes on the wire. -/
theorem test_setAnswered_fails_midway :
    (nextOf (exec (.setAnswered 0x01#8 0x02#8) { base with txAnswers := [.ioError lost 2] })).map
        (fun t => (t.txWire, t.hostOut)) =
      some ([0x04#8, 0x01#8], [.raised (.writeIoError lost)]) := by decide
/-- E12: the index is refused and no write is attempted. -/
theorem test_setAnswered_refuses_index :
    (nextOf (exec (.setAnswered 0x04#8 0x01#8) { base with txAnswers := [.ioError lost 0] })).map
        (fun t => (t.txWire, t.txAnswers, t.hostOut)) =
      some ([], [.ioError lost 0], [.raised .invalidButtonIndex]) := by decide
/-- S10 and S11: only block reset revives the reader, and it discards `MBOX`. -/
theorem test_blockReset_revives :
    (nextOf (exec .blockReset
        { base with RX_DEAD := true, RX_ERR := some lost, ST_VALID := true, MBOX := some ⟨2#8, 2#8, 2#8, 2#8⟩,
                    txWire := [0x01#8] })).map
        (fun t => (t.rxLive, t.ST_VALID, t.MBOX, t.txWire)) =
      some (true, false, none, [0x01#8]) := by decide

/-- The packed view after F3 and after `FRAME F3 B2 31 C1` (95_test_vectors.md, section 2.3). -/
theorem test_packed_view :
    packStatus ⟨⟨true, true, .enabled⟩, ⟨false, false, .disabled⟩, ⟨false, false, .enabled⟩,
        ⟨false, false, .answered⟩⟩ = 0x030201C2#32 ∧
      (decodeFrame [0xF3#8, 0xB2#8, 0x31#8, 0xC1#8]).toOption.map packStatus = some 0xC10182C3#32 := by
  decide

/-! ### The first step after reset -/

theorem test_step_rxStart :
    (nextOf (step (State.reset.withFetchWord 8 0x53))).map (fun t => (t.REC, t.rxPort)) =
      some (true, []) := by decide
theorem test_step_rxStopEmit :
    (nextOf (step (State.reset.withFetchWord 8 0x0A))).map (fun t => (t.REC, t.MBOX)) =
      some (false, none) := by decide
theorem test_step_rxDataAppend :
    (nextOf (step (State.reset.withFetchWord 8 0xC2))).map (fun t => (t.REC, t.BUF)) =
      some (true, [0xC2#8]) := by decide
theorem test_step_setAnswered :
    (nextOf (step ((State.reset.withFetchWord 24 0x010204)))).map (·.hostPort) = some [] := by decide
/-- Waiting: with no turn left nothing happens. -/
theorem test_step_waits : step State.reset = .next State.reset := rfl

/-! ### Witnesses: each statement's hypotheses are met together -/

theorem test_witness_RxByteSelectsByClassAndRec : (0x54#8 : Byte) ≠ 0x53#8 ∧ (0x54#8 : Byte) ≠ 0x0A#8 := by
  decide
theorem test_witness_DecodeOfEncodeIsIdentity :
    (Instr.setAnswered 0x03#8 0xFF#8).wellFormed = true ∧
      encode (.setAnswered 0x03#8 0xFF#8) = some [0x04#8, 0x03#8, 0xFF#8] ∧
      readWhere .tx (.setAnswered 0x03#8 0xFF#8) = true ∧
      (Instr.rxIdleDrop 0x0A#8).wellFormed = true ∧ encode (.rxIdleDrop 0x0A#8) = some [0x0A#8] ∧
      readWhere (.rx false) (.rxIdleDrop 0x0A#8) = true := by decide
theorem test_witness_EncodeOfDecodeIsIdentity :
    decode .tx [0x04#8, 0x03#8, 0xFF#8, 0x01#8] = .ok (.setAnswered 0x03#8 0xFF#8, [0x01#8]) := by decide
theorem test_witness_TxStreamSplitsIntoItsCommands :
    [Command.setAnswered 0x03#8 0x04#8, .enable].mapM encodeCommand =
      some [[0x04#8, 0x03#8, 0x04#8], [0x01#8]] := by decide
theorem test_witness_UndefinedOpcodesAreNeverSent :
    exec .enable base = .next (sendCommand .enable base) := rfl

/-- A live agent without a stop request, idle and recording, and one with a last byte of budget: what the effect
statements of the byte operations assume. -/
theorem test_witness_byte_statements :
    base.rxLive = true ∧ base.STOP_REQ = false ∧ base.REC = false ∧ (0x0A#8 : Byte) ≠ 0x53#8 ∧
      ({ base with STOP_REQ := true, STOP_BUDGET := 1 } : State).rxLive = true ∧
      0 < ({ base with STOP_REQ := true, STOP_BUDGET := 1 } : State).STOP_BUDGET ∧
      ({ base with REC := true } : State).rxLive = true ∧ ({ base with REC := true } : State).REC = true := by
  decide
theorem test_witness_RxStartBeginsFrame : base.rxLive = true ∧ (base.STOP_REQ = false ∨ 0 < base.STOP_BUDGET) := by
  decide
theorem test_witness_RxIdleDropDiscardsByte :
    base.rxLive = true ∧ (base.STOP_REQ = false ∨ 0 < base.STOP_BUDGET) ∧ base.REC = false ∧
      (0x0A#8 : Byte) ≠ 0x53#8 := by decide
theorem test_witness_RxStopEmitPushesFourByteFrame :
    let s : State := { base with REC := true, BUF := [1#8, 2#8, 3#8, 1#8], STOP_REQ := true, STOP_BUDGET := 1 }
    s.rxLive = true ∧ (s.STOP_REQ = false ∨ 0 < s.STOP_BUDGET) ∧ s.REC = true ∧
      s.BUF = [1#8, 2#8, 3#8, 1#8] := by decide
theorem test_witness_RxStopEmit_other_length :
    let s : State := { base with REC := true, BUF := [1#8, 2#8, 3#8, 1#8, 1#8] }
    s.rxLive = true ∧ (s.STOP_REQ = false ∨ 0 < s.STOP_BUDGET) ∧ s.REC = true ∧ s.BUF.length ≠ 4 := by decide
theorem test_witness_RxDataAppendExtendsBuffer :
    let s : State := { base with REC := true }
    s.rxLive = true ∧ (s.STOP_REQ = false ∨ 0 < s.STOP_BUDGET) ∧ s.REC = true ∧
      (0x00#8 : Byte) ≠ 0x53#8 ∧ (0x00#8 : Byte) ≠ 0x0A#8 := by decide
theorem test_witness_RxFailKillsAgentOnly : ({ base with STOP_REQ := true } : State).rxLive = true := by decide
theorem test_witness_ReadFailureIsFatalToReaderOnly :
    base.rxLive = true ∧ hostOp .refresh = true ∧
      (let t := { base with RX_DEAD := true, RX_ERR := some lost, schedule := [.rx] }
       exec (.rxFail lost) { base with schedule := [.rx] } = .next t ∧ Turn.blockReset ∉ t.schedule ∧
         run 1 t = .next { t with schedule := [] }) :=
  ⟨by decide, by decide, rfl, by decide, rfl⟩
theorem test_witness_RxHaltStopsAgentOnly :
    let s : State := { base with STOP_REQ := true }
    s.rxLive = true ∧ s.STOP_REQ = true := by decide
theorem test_witness_StopRequestsOnce :
    (base.RX_DEAD = false ∧ base.RX_STOPPED = false ∧ base.STOP_REQ = false) ∧
      ({ base with STOP_REQ := true } : State).STOP_REQ = true ∧
      ({ base with RX_STOPPED := true } : State).RX_STOPPED = true ∧
      ({ base with RX_DEAD := true } : State).RX_DEAD = true := by decide
theorem test_witness_ExactlyOneByteOperationRuns :
    base.rxLive = true ∧ (base.STOP_REQ = false ∨ 0 < base.STOP_BUDGET) ∧
      readWhere (.rx false) (.rxIdleDrop 0x0A#8) = true ∧ encode (.rxIdleDrop 0x0A#8) = some [0x0A#8] := by
  decide
theorem test_witness_NoRxStepUnlessLive :
    rxOp .rxStart = true ∧ ({ base with RX_DEAD := true } : State).RX_DEAD = true ∧
      ({ base with RX_STOPPED := true } : State).RX_STOPPED = true := by decide
theorem test_witness_SpentBudgetLeavesFailAndHalt :
    let s : State := { base with STOP_REQ := true }
    s.rxLive = true ∧ s.STOP_REQ = true ∧ s.STOP_BUDGET = 0 := by decide
theorem test_witness_RxRunRefinesDetector :
    let s : State := { base with
      rxPort := [.byte 0x53#8, .byte 0x0A#8, .fail lost], schedule := [.rx, .rx, .halt]
      STOP_REQ := true, STOP_BUDGET := 2 }
    s.rxLive = true ∧ (s.STOP_REQ = false ∨ [0x53#8, 0x0A#8].length ≤ s.STOP_BUDGET) ∧
      s.rxPort = [0x53#8, 0x0A#8].map .byte ++ [.fail lost] ∧
      s.schedule = List.replicate [0x53#8, 0x0A#8].length .rx ++ [.halt] := by decide
/-- Two chunks with host operations after each, of a live agent and of a stopping one. -/
theorem test_witness_ChunkSplitInvariance :
    let parts : List (List Byte × List HostReq) := [([0x53#8, 0x01#8], [.snapshot, .enable]), ([0x0A#8], [.rxStatus])]
    let s : State := { base with
      rxPort := [.byte 0x53#8, .byte 0x01#8, .byte 0x0A#8, .fail lost]
      hostPort := [.snapshot, .enable, .rxStatus, .refresh]
      schedule := [.rx, .rx, .host, .host, .rx, .host, .halt] }
    (∀ p ∈ parts, .refresh ∉ p.2) ∧ s.rxLive = true ∧ (s.STOP_REQ = false ∧ ∀ p ∈ parts, .stop ∉ p.2) ∧
      s.rxPort = (parts.flatMap (·.1)).map .byte ++ [.fail lost] ∧
      s.hostPort = parts.flatMap (·.2) ++ [.refresh] ∧ s.schedule = parts.flatMap chunkTurns ++ [.halt] := by
  decide
theorem test_witness_ChunkSplitInvariance_stopping :
    let parts : List (List Byte × List HostReq) := [([0x53#8], [.stop]), ([0x01#8], [])]
    let s : State := { base with
      STOP_REQ := true, STOP_BUDGET := 2, rxPort := [.byte 0x53#8, .byte 0x01#8], hostPort := [.stop]
      schedule := [.rx, .host, .rx] }
    (∀ p ∈ parts, .refresh ∉ p.2) ∧ s.rxLive = true ∧
      (s.STOP_REQ = true ∧ (parts.flatMap (·.1)).length ≤ s.STOP_BUDGET) ∧
      s.rxPort = (parts.flatMap (·.1)).map .byte ++ [] ∧ s.hostPort = parts.flatMap (·.2) ++ [] ∧
      s.schedule = parts.flatMap chunkTurns ++ [] := by decide
theorem test_witness_FramingRoundTrip : delimiterFree [0xC2#8, 0x01#8, 0x02#8, 0x03#8] := by
  unfold delimiterFree; decide
theorem test_witness_EmittedPayloadsHoldNoDelimiter :
    delimiterFree (Detector.mk true [0x01#8]).buffer ∧
      [0x01#8, 0x02#8] ∈ ((Detector.mk true [0x01#8]).feed [0x02#8, 0x0A#8]).2 := by
  unfold delimiterFree; decide
theorem test_witness_DecodeByteReadsMaskedFields :
    0x81#8 &&& 0x0F#8 = 1#8 ∧ 0x42#8 &&& 0x0F#8 = 2#8 ∧ 0xF3#8 &&& 0x0F#8 = 3#8 ∧
      (0x04#8 &&& 0x0F#8 ≠ 1#8 ∧ 0x04#8 &&& 0x0F#8 ≠ 2#8 ∧ 0x04#8 &&& 0x0F#8 ≠ 3#8) ∧
      (0xC0#8 &&& 0x0F#8 ≠ 1#8 ∧ 0xC0#8 &&& 0x0F#8 ≠ 2#8 ∧ 0xC0#8 &&& 0x0F#8 ≠ 3#8) := by decide
theorem test_witness_BitsFiveAndFourAreIgnored : 0xF3#8 &&& 0xCF#8 = 0xC3#8 &&& 0xCF#8 := by decide
theorem test_witness_DecodeIsFourLanesLowestErrorFirst :
    [0x01#8, 0x02#8, 0x03#8].length ≠ 4 ∧
      decodeFrame [0x01#8, 0x02#8, 0x03#8, 0x01#8] =
        .ok ⟨⟨false, false, .disabled⟩, ⟨false, false, .enabled⟩, ⟨false, false, .answered⟩,
          ⟨false, false, .disabled⟩⟩ ∧
      decodeFrame [0x01#8, 0x02#8, 0x03#8, 0x04#8] = .error (.invalidState 4#4) := by decide
theorem test_witness_DecodeAnswersAndWritesNothing :
    decodeFrame [0x01#8, 0x01#8, 0x01#8, 0x01#8] = .ok allDisabled ∧
      decodeFrame [] = .error .wrongLength := by decide
theorem test_witness_RefreshAppliesLatestFrame :
    base.MBOX = none ∧
      decodeFrame [0x01#8, 0x01#8, 0x01#8, 0x01#8] = .ok allDisabled ∧
      decodeFrame [0x01#8, 0x01#8, 0x09#8, 0x01#8] = .error (.invalidState 9#4) ∧
      ({ base with MBOX := some ⟨1#8, 1#8, 9#8, 1#8⟩ } : State).MBOX = some ⟨1#8, 1#8, 9#8, 1#8⟩ := by decide
theorem test_witness_SecondRefreshIsEmpty :
    Instr.rxStopEmit ∉ [.rxStart, .snapshot] ∧
      runOps [.rxStart, .snapshot] base =
        .next (answer (.snapshot false allDisabled) { base with REC := true }) := ⟨by decide, rfl⟩
theorem test_witness_ReadsHaveNoSideEffect : ∃ frame, Instr.decode [0x01#8] = .decode frame := ⟨_, rfl⟩
theorem test_witness_RepackingClearsIgnoredBits :
    decodeFrame (Four.mk 0xF1#8 0x31#8 0x01#8 0xC1#8).toList =
      .ok ⟨⟨true, true, .disabled⟩, ⟨false, false, .disabled⟩, ⟨false, false, .disabled⟩,
        ⟨true, true, .disabled⟩⟩ := by decide
theorem test_witness_RefreshSeesLastOfManyFrames :
    let f : Four Byte := ⟨0x81#8, 0x81#8, 0x81#8, 0x81#8⟩
    let g : Four Byte := ⟨0x42#8, 0x42#8, 0x42#8, 0x42#8⟩
    let s : State := { base with
      rxPort := ([f, g].flatMap onTheWire).map .byte
      hostPort := [.refresh]
      schedule := List.replicate (6 * [f, g].length) .rx ++ [.host] }
    [f, g].getLast? = some g ∧ (∀ x ∈ [f, g], delimiterFree x.toList) ∧ s.rxLive = true ∧
      s.STOP_REQ = false ∧ s.rxPort = ([f, g].flatMap onTheWire).map .byte ++ [] ∧
      s.hostPort = [.refresh] ∧ s.schedule = List.replicate (6 * [f, g].length) .rx ++ .host :: [] ∧
      decodeFrame g.toList = .ok ⟨⟨false, true, .enabled⟩, ⟨false, true, .enabled⟩, ⟨false, true, .enabled⟩,
        ⟨false, true, .enabled⟩⟩ := by
  unfold delimiterFree; decide
theorem test_witness_SetAnsweredWritesThreeBytes : (0x03#8 : Byte).toNat ≤ 3 := by decide
theorem test_witness_SetAnsweredRefusesHighIndex : 3 < (0x04#8 : Byte).toNat ∧ 3 < (0xFF#8 : Byte).toNat := by
  decide
theorem test_witness_WriteFailureReturnsToCallerOnly :
    (encodeCommand (.setAnswered 0x03#8 0x02#8)).isSome = true ∧
      ProviderAnswers { base with txAnswers := [.ioError lost 2, .ok] } (.ioError lost 2)
        { base with txAnswers := [.ok] } :=
  ⟨rfl, .inl ⟨[.ok], rfl, rfl⟩⟩
theorem test_witness_SendsIgnoreTheRxSide :
    base.txAnswers = ({ base with RX_DEAD := true, REC := true } : State).txAnswers ∧
      base.draws = ({ base with RX_DEAD := true, REC := true } : State).draws := by decide
theorem test_witness_RxStepsIgnoreTheTxSide : rxOp .rxHalt = true := by decide
theorem test_witness_StepRunsSelectedOperation :
    base.schedule = [] ∧ ({ base with schedule := [.blockReset] } : State).schedule = .blockReset :: [] ∧
      (let s : State := { base with schedule := [.host], hostPort := [.refresh] }
       s.schedule = .host :: [] ∧ s.hostPort = .refresh :: []) ∧
      (let s : State := { base with schedule := [.halt], STOP_REQ := true }
       s.schedule = .halt :: [] ∧ s.rxLive = true ∧ s.STOP_REQ = true) ∧
      (let s : State := { base with schedule := [.rx], rxPort := [.byte 0x53#8] }
       s.schedule = .rx :: [] ∧ s.rxPort = .byte 0x53#8 :: [] ∧ s.rxLive = true ∧ s.STOP_REQ = false) ∧
      (let s : State := { base with schedule := [.rx], rxPort := [.fail lost] }
       s.schedule = .rx :: [] ∧ s.rxPort = .fail lost :: [] ∧ s.rxLive = true) ∧
      (let s : State := { base with schedule := [.rx], rxPort := [.byte 0x53#8], RX_DEAD := true }
       s.schedule = .rx :: [] ∧ s.rxLive = false) ∧
      (let s : State := { base with schedule := [.rx], rxPort := [.byte 0x53#8], STOP_REQ := true }
       s.schedule = .rx :: [] ∧ s.rxPort = .byte 0x53#8 :: [] ∧ s.STOP_REQ = true ∧ s.STOP_BUDGET = 0) := by
  decide
theorem test_witness_StepRunsSelectedOperation_idle_turns :
    (let s : State := { base with schedule := [.host] }
     s.schedule = .host :: [] ∧ s.hostPort = []) ∧
      (let s : State := { base with schedule := [.halt] }
       s.schedule = .halt :: [] ∧ s.STOP_REQ = false) ∧
      (let s : State := { base with schedule := [.rx] }
       s.schedule = .rx :: [] ∧ s.rxPort = []) := by decide
theorem test_witness_OfferedTableWordRunsNext :
    decodeTableWord 24 0x010204 = some (.setAnswered 0x02#8 0x01#8) ∧ base.rxLive = true ∧
      base.STOP_REQ = false := by decide
theorem test_witness_host_operations : hostOp (.setAnswered 0xFF#8 0x00#8) = true ∧ hostOp .stop = true := by
  decide
theorem test_witness_OnlyOwnersWrite : exec .rxStatus base = .next (answer (.rxStatus false none false) base) :=
  rfl
theorem test_witness_OutputsOnlyGrow : step base = .next base := rfl
theorem test_witness_EveryStepKeepsInvariant : base.Inv ∧ step base = .next base := by
  refine ⟨?_, rfl⟩
  constructor <;> simp [base, State.reset, delimiterFree]
theorem test_witness_OnlyBlockResetRevivesReader :
    let s : State := { base with RX_DEAD := true, RX_ERR := some lost, schedule := [.halt] }
    s.rxLive = false ∧ Turn.blockReset ∉ s.schedule ∧ run 1 s = .next { s with schedule := [] } :=
  ⟨by decide, by decide, rfl⟩
theorem test_witness_BytesAfterStopAreBounded :
    let s : State := { base with STOP_REQ := true, STOP_BUDGET := 1, rxPort := [.byte 0x53#8], schedule := [.rx] }
    s.STOP_REQ = true ∧ Turn.blockReset ∉ s.schedule ∧
      run 1 s = .next { s with REC := true, STOP_BUDGET := 0, rxPort := [], schedule := [] } :=
  ⟨by decide, by decide, rfl⟩

/-- A stopping agent that halts in its first turn; after that every turn finds it stopped. -/
def haltingRun : Run where
  turn _ := .halt
  before
    | 0 => { base with STOP_REQ := true, schedule := [.halt] }
    | _ + 1 => { base with STOP_REQ := true, RX_STOPPED := true, schedule := [.halt] }
  after _ := { base with STOP_REQ := true, RX_STOPPED := true }
  turn_is_next n := by cases n <;> rfl
  steps n := by cases n <;> rfl
  supplied n := by simp [Supplied, SameBlock]

/-- The run is weakly fair to both agents: neither has a step from its second turn on. -/
theorem haltingRun_weaklyFair : haltingRun.WeaklyFair := by
  rintro (_ | _) n h
  · rcases h (n + 1) (Nat.le_succ n) with h | ⟨ev, rest, h, _⟩
    · exact absurd h (by simp [haltingRun, State.haltEnabled, State.rxLive])
    · exact absurd h (by simp [haltingRun, base, State.reset])
  · exact absurd rfl (h (n + 1) (Nat.le_succ n))

theorem test_witness_FairRunsHaltAfterStop :
    haltingRun.WeaklyFairTo .rx ∧ (haltingRun.before 0).STOP_REQ = true ∧
      ∀ m, 0 ≤ m → haltingRun.turn m ≠ .blockReset :=
  ⟨haltingRun_weaklyFair .rx, rfl, fun m _ => by simp [haltingRun]⟩

/-- A host agent that serves its one request in its first turn. -/
def servingRun : Run where
  turn _ := .host
  before
    | 0 => { base with hostPort := [.snapshot], schedule := [.host] }
    | _ + 1 => { base with hostOut := [.snapshot false allDisabled], schedule := [.host] }
  after _ := { base with hostOut := [.snapshot false allDisabled] }
  turn_is_next n := by cases n <;> rfl
  steps n := by cases n <;> rfl
  supplied n := by simp [Supplied, SameBlock]

theorem test_witness_FairRunsServeEveryRequest :
    servingRun.WeaklyFairTo .host ∧ (servingRun.before 0).hostPort = [] ++ .snapshot :: [] :=
  ⟨fun n h => absurd rfl (h (n + 1) (Nat.le_succ n)), rfl⟩

end Sys2Proof.Tests
end

section
/-! PROOF. The statements of 00_scope.md: the values after reset, and who writes which element. -/

namespace Sys2Proof.Machine

/-- A dropped byte leaves the detector as it is (rule R102). -/
theorem afterByte_REC_BUF_of_rxIdleDrop {b : Byte} {s : State} (h : decodeRxByte s.REC b = .rxIdleDrop b) :
    (afterByte b s).REC = s.REC ∧ (afterByte b s).BUF = s.BUF := by
  obtain ⟨-, hi⟩ | ⟨hr, hb, -⟩ | ⟨-, -, hi⟩ | ⟨-, -, -, hi⟩ := decodeRxByte_cases s.REC b
  case inr.inl => simp [afterByte, State.detector, hr, Detector.next_idle hb]
  all_goals rw [hi] at h; cases h

/-- Of the byte operations only the stop delimiter in a frame reaches the channel (rules R103, R105). -/
theorem afterByte_MBOX_of_ne_rxStopEmit {b : Byte} {s : State}
    (h : decodeRxByte s.REC b ≠ .rxStopEmit) : (afterByte b s).MBOX = s.MBOX := by
  obtain ⟨rfl, -⟩ | ⟨hr, hb, -⟩ | ⟨-, -, hi⟩ | ⟨hr, hb, hb', -⟩ := decodeRxByte_cases s.REC b
  · simp [afterByte, Detector.next_start]
  · simp [afterByte, State.detector, hr, Detector.next_idle hb]
  · exact absurd hi h
  · simp [afterByte, State.detector, hr, Detector.next_data hb hb']

/-- A byte selects one of the four byte operations (rule R70). -/
theorem decodeRxByte_eq_or (recording : Bool) (b : Byte) :
    decodeRxByte recording b = .rxStart ∨ decodeRxByte recording b = .rxStopEmit ∨
      decodeRxByte recording b = .rxDataAppend b ∨ decodeRxByte recording b = .rxIdleDrop b := by
  obtain ⟨-, hi⟩ | ⟨-, -, hi⟩ | ⟨-, -, hi⟩ | ⟨-, -, -, hi⟩ := decodeRxByte_cases recording b <;>
    simp [hi]

end Sys2Proof.Machine

open Sys2Proof Sys2Proof.Machine

/-- Settles O45: every value is one that the reset state is written with. -/
theorem resetStateHasTableValues : Obligations.ResetStateHasTableValues := by
  unfold Obligations.ResetStateHasTableValues
  have hlive : State.reset.rxLive = true := (rxLive_iff _).2 ⟨rfl, rfl⟩
  exact ⟨rfl, rfl, rfl, rfl, rfl, rfl, rfl, rfl, rfl, hlive, rfl⟩

/-- Settles O51, by the effect of the operation: a byte writes the detector, the channel and the budget, a send writes
no element, and every other effect names the elements it writes. -/
theorem onlyOwnersWrite : Obligations.OnlyOwnersWrite := by
  unfold Obligations.OnlyOwnersWrite
  intro i s t h hreset
  cases exec_effect h with
  | byte b _ =>
    refine ⟨fun hne => ?_, fun hne => ?_, by simp [afterByte], by simp [afterByte], by simp [afterByte],
      fun _ => ?_, by simp [afterByte], rfl⟩
    · obtain hi | hi | hi | hi := decodeRxByte_eq_or s.REC b
      · exact .inl hi
      · exact .inr (.inl hi)
      · exact .inr (.inr ⟨b, hi⟩)
      · obtain ⟨hrec, hbuf⟩ := afterByte_REC_BUF_of_rxIdleDrop hi
        simp [hrec, hbuf] at hne
    · exact .inl (not_imp_comm.1 afterByte_MBOX_of_ne_rxStopEmit hne)
    · obtain hi | hi | hi | hi := decodeRxByte_eq_or s.REC b <;> simp [hi]
  | fail | halt | stop | result | refused | applied => simp
  | sent c bytes _ _ ht =>
    obtain ⟨⟨hREC, hBUF, hMBOX, hST, hVALID, hDEAD, hERR, hREQ, hBUDGET, hSTOPPED⟩, -, -, -, hconfig, -⟩ :=
      ht.frame
    simp [hREC, hBUF, hMBOX, hST, hVALID, hDEAD, hERR, hREQ, hBUDGET, hSTOPPED, hconfig]
  | blockReset => exact absurd rfl hreset
end

section
/-! PROOF. The statements of 10_state.md: the invariant of the block, when the RX agent takes no step, what the host
cannot see, and how the status register is replaced. -/

namespace Sys2Proof.Machine

/-! ### The detector keeps its buffer free of delimiters (rules R34, R82) -/

/-- Everything one byte can do to the detector (rules R101 to R104). -/
theorem Detector.next_cases (d : Detector) (b : Byte) :
    (b = 0x53#8 ∧ d.next b = (⟨true, []⟩, none)) ∨
      (b ≠ 0x53#8 ∧ d.recording = false ∧ d.next b = (d, none)) ∨
      (b = 0x0A#8 ∧ d.recording = true ∧ d.next b = (⟨false, []⟩, some d.buffer)) ∨
      (b ≠ 0x53#8 ∧ b ≠ 0x0A#8 ∧ d.recording = true ∧ d.next b = (⟨true, d.buffer ++ [b]⟩, none)) := by
  by_cases hstart : b = 0x53#8
  · exact .inl ⟨hstart, hstart ▸ next_start d⟩
  · obtain ⟨recording, buffer⟩ := d
    cases recording with
    | false => exact .inr (.inl ⟨hstart, rfl, next_idle hstart buffer⟩)
    | true =>
      by_cases hstop : b = 0x0A#8
      · exact .inr (.inr (.inl ⟨hstop, rfl, hstop ▸ next_stop buffer⟩))
      · exact .inr (.inr (.inr ⟨hstart, hstop, rfl, next_data hstart hstop buffer⟩))

theorem delimiterFree_nil : delimiterFree [] := List.forall_mem_nil _

theorem Detector.next_buffer_delimiterFree {d : Detector} (h : delimiterFree d.buffer) (b : Byte) :
    delimiterFree (d.next b).1.buffer := by
  obtain ⟨-, hn⟩ | ⟨-, -, hn⟩ | ⟨-, -, hn⟩ | ⟨hstart, hstop, -, hn⟩ := d.next_cases b <;> rw [hn]
  · exact delimiterFree_nil
  · exact h
  · exact delimiterFree_nil
  · exact List.forall_mem_append.2 ⟨h, List.forall_mem_singleton.2 ⟨hstart, hstop⟩⟩

theorem Detector.next_buffer_of_idle {d : Detector} (h : d.recording = false → d.buffer = []) (b : Byte) :
    (d.next b).1.recording = false → (d.next b).1.buffer = [] := by
  obtain ⟨-, hn⟩ | ⟨-, -, hn⟩ | ⟨-, -, hn⟩ | ⟨-, -, -, hn⟩ := d.next_cases b <;> rw [hn]
  · exact fun _ => rfl
  · exact h
  · exact fun _ => rfl
  · exact nofun

theorem Detector.next_emits_buffer {d : Detector} {b : Byte} {frame : List Byte}
    (h : (d.next b).2 = some frame) : frame = d.buffer := by
  obtain ⟨-, hn⟩ | ⟨-, -, hn⟩ | ⟨-, -, hn⟩ | ⟨-, -, -, hn⟩ := d.next_cases b <;> rw [hn] at h <;> cases h
  rfl

/-! ### Each effect keeps the invariant of the block -/

/-- The invariant speaks of the ten elements of the block only (rule R36). -/
theorem State.Inv.of_sameBlock {s t : State} (hs : s.Inv) (h : SameBlock s t) : t.Inv := by
  obtain ⟨hREC, hBUF, hMBOX, -, -, hDEAD, hERR, hREQ, hBUDGET, hSTOPPED⟩ := h
  constructor
  · exact hBUF ▸ hs.bufferHasNoDelimiter
  · exact hREC ▸ hBUF ▸ hs.bufferEmptyWhenIdle
  · exact hMBOX ▸ hs.mailboxHasNoDelimiter
  · exact hDEAD ▸ hERR ▸ hs.deadWithError
  · exact hDEAD ▸ hSTOPPED ▸ hs.notDeadAndStopped
  · exact hSTOPPED ▸ hREQ ▸ hs.stoppedOnRequest
  · exact hREQ ▸ hBUDGET ▸ hs.budgetAfterStop
  · exact hBUDGET ▸ hs.budgetWithinRead

/-- A byte pushes a frame only from the buffer, and spends budget only where there is some (rules R100, R105). -/
theorem State.Inv.afterByte {s : State} (hs : s.Inv) (b : Byte) : (afterByte b s).Inv where
  bufferHasNoDelimiter := Detector.next_buffer_delimiterFree (d := s.detector) hs.bufferHasNoDelimiter b
  bufferEmptyWhenIdle := Detector.next_buffer_of_idle (d := s.detector) hs.bufferEmptyWhenIdle b
  mailboxHasNoDelimiter f hf := by
    obtain hpush | ⟨-, hkept⟩ := Option.or_eq_some_iff.1 hf
    · obtain ⟨frame, hemit, hlen⟩ := Option.bind_eq_some_iff.1 hpush
      obtain rfl := Detector.next_emits_buffer hemit
      rw [← (ofList?_eq_some_iff ..).1 hlen]
      exact hs.bufferHasNoDelimiter
    · exact hs.mailboxHasNoDelimiter f hkept
  deadWithError := hs.deadWithError
  notDeadAndStopped := hs.notDeadAndStopped
  stoppedOnRequest := hs.stoppedOnRequest
  budgetAfterStop hreq := by
    have hreq : s.STOP_REQ = false := hreq
    simpa [Machine.afterByte, hreq] using hs.budgetAfterStop hreq
  budgetWithinRead := by
    have hbound := hs.budgetWithinRead
    simp only [Machine.afterByte]
    split <;> omega

theorem resetBlock_inv (s : State) : (resetBlock s).Inv where
  bufferHasNoDelimiter := delimiterFree_nil
  bufferEmptyWhenIdle _ := rfl
  mailboxHasNoDelimiter := nofun
  deadWithError := rfl
  notDeadAndStopped := nofun
  stoppedOnRequest := nofun
  budgetAfterStop _ := rfl
  budgetWithinRead := Nat.zero_le _

/-- Every effect keeps the invariant: a failure and a halt come from a live agent, and a stop request draws its budget
from `{0 .. READ_MAX}` (rules R100, R107, R108). -/
theorem Effect.inv {i : Instr} {s t : State} (h : Effect s i t) (hs : s.Inv) : t.Inv := by
  cases h with
  | byte b _ => exact hs.afterByte b
  | fail e hlive =>
    obtain ⟨-, hstopped⟩ := (rxLive_iff s).1 hlive
    exact { hs with
      deadWithError := rfl
      notDeadAndStopped := by simp [hstopped] }
  | halt henabled =>
    obtain ⟨hlive, hreq⟩ := Bool.and_eq_true_iff.1 henabled
    obtain ⟨hdead, -⟩ := (rxLive_iff s).1 hlive
    exact { hs with
      notDeadAndStopped := by simp [hdead]
      stoppedOnRequest := fun _ => hreq }
  | stop =>
    exact { hs with
      stoppedOnRequest := fun _ => rfl
      budgetAfterStop := nofun
      budgetWithinRead := Nat.le_of_lt_succ (Config.stopBudget s.draws).isLt }
  | result => exact hs.of_sameBlock (by simp [SameBlock])
  | refused | applied => exact { hs with mailboxHasNoDelimiter := nofun }
  | sent _ _ _ _ hsent => exact hs.of_sameBlock hsent.frame.1
  | blockReset => exact resetBlock_inv s

/-! ### The RX operations of an agent that is not live -/

theorem rxByteStep_of_not_live (selected : Bool) (effect : State → State) {s : State} (h : s.rxLive = false) :
    rxByteStep selected effect s = .fault .rxAgentNotLive := by
  simp [rxByteStep, h]

theorem execRxFail_of_not_live (e : IoErr) {s : State} (h : s.rxLive = false) :
    execRxFail e s = .fault .rxAgentNotLive := by
  simp [execRxFail, h]

theorem execRxHalt_of_not_live {s : State} (h : s.rxLive = false) :
    execRxHalt s = .fault .rxAgentNotLive := by
  simp [execRxHalt, h]

/-! ### STOP and REFRESH by the case of the state (rules R107, R132) -/

theorem execStop_of_ignored {s : State} (h : (s.RX_DEAD || s.RX_STOPPED || s.STOP_REQ) = true) :
    execStop s = .next (answer .ok s) := by
  simp [execStop, h]

theorem execStop_of_accepted {s : State} (h : (s.RX_DEAD || s.RX_STOPPED || s.STOP_REQ) = false) :
    execStop s = .next (answer .ok (requestStop s)) := by
  simp [execStop, h]

theorem execRefresh_of_none {s : State} (h : s.MBOX = none) : execRefresh s = .next (answer .empty s) := by
  simp [execRefresh, h]

theorem execRefresh_of_some {s : State} {f : Four Byte} (h : s.MBOX = some f) :
    execRefresh s = .next (applyFrame f s) := by
  simp [execRefresh, h]

/-! ### What the host cannot see -/

/-- The state with other values in the elements hidden from the host (rule R35). -/
def setHidden (recording : Bool) (buffer : List Byte) (budget : Nat) (s : State) : State :=
  { s with REC := recording, BUF := buffer, STOP_BUDGET := budget }

section
variable (recording : Bool) (buffer : List Byte) (budget : Nat) (s : State)

theorem txWrite_setHidden (bytes : List Byte) :
    txWrite bytes (setHidden recording buffer budget s) =
      setHidden recording buffer budget (txWrite bytes s) := by
  have huse : useAnswer (setHidden recording buffer budget s) =
      setHidden recording buffer budget (useAnswer s) := by
    simp only [useAnswer, setHidden]
    cases s.txAnswers <;> rfl
  simp only [txWrite, huse]
  rfl

theorem sendCommand_setHidden (c : Command) :
    sendCommand c (setHidden recording buffer budget s) =
      setHidden recording buffer budget (sendCommand c s) := by
  unfold sendCommand
  cases encodeCommand c with
  | none => rfl
  | some bytes => exact txWrite_setHidden recording buffer budget s bytes

theorem applyFrame_setHidden (f : Four Byte) :
    applyFrame f (setHidden recording buffer budget s) =
      setHidden recording buffer budget (applyFrame f s) := by
  unfold applyFrame
  cases decodeFour f <;> rfl

/-- A host operation completes alike whatever the hidden elements hold. The budget after it may be another: an accepted
stop request draws it (rule R107). -/
theorem exec_setHidden {i : Instr} (hi : hostOp i = true) :
    ∃ t budget', exec i s = .next t ∧
      exec i (setHidden recording buffer budget s) = .next (setHidden recording buffer budget' t) := by
  cases i with
  | rxStart | rxIdleDrop _ | rxStopEmit | rxDataAppend _ | rxFail _ | rxHalt | blockReset => cases hi
  | stop =>
    cases h : s.RX_DEAD || s.RX_STOPPED || s.STOP_REQ with
    | true =>
      exact ⟨_, budget, execStop_of_ignored h,
        execStop_of_ignored (s := setHidden recording buffer budget s) h⟩
    | false =>
      exact ⟨_, (Config.stopBudget s.draws).val, execStop_of_accepted h,
        execStop_of_accepted (s := setHidden recording buffer budget s) h⟩
  | rxStatus | snapshot => exact ⟨_, budget, rfl, rfl⟩
  | decode frame =>
    simp only [exec, execDecode]
    cases decodeFrame frame <;> exact ⟨_, budget, rfl, rfl⟩
  | refresh =>
    cases h : s.MBOX with
    | none =>
      exact ⟨_, budget, execRefresh_of_none h,
        execRefresh_of_none (s := setHidden recording buffer budget s) h⟩
    | some f =>
      refine ⟨_, budget, execRefresh_of_some h, ?_⟩
      rw [← applyFrame_setHidden]
      exact execRefresh_of_some h
  | enable => exact ⟨_, budget, rfl, congrArg _ (sendCommand_setHidden recording buffer budget s .enable)⟩
  | reset => exact ⟨_, budget, rfl, congrArg _ (sendCommand_setHidden recording buffer budget s .reset)⟩
  | disable => exact ⟨_, budget, rfl, congrArg _ (sendCommand_setHidden recording buffer budget s .disable)⟩
  | setAnswered idx status =>
    exact ⟨_, budget, rfl,
      congrArg _ (sendCommand_setHidden recording buffer budget s (.setAnswered idx status))⟩

end

/-! ### The frame that REFRESH decodes -/

theorem decodeFrame_toList (f : Four Byte) : decodeFrame f.toList = decodeFour f := by
  simp [decodeFrame, ofList?_toList]

end Sys2Proof.Machine

open Sys2Proof Sys2Proof.Machine

/-- Settles O55: the fetch leaves the block as it is, and each effect of the operation it selects keeps the
invariant. -/
theorem everyStepKeepsInvariant : Obligations.EveryStepKeepsInvariant := by
  unfold Obligations.EveryStepKeepsInvariant
  intro s t hs hstep
  have hfetched : (fetch s).2.Inv := hs.of_sameBlock (fetch_spec s).1
  obtain ⟨-, rfl⟩ | ⟨i, -, hexec⟩ := step_cases hstep
  · exact hfetched
  · exact (exec_effect hexec).inv hfetched

/-- Settles O17: each RX operation tests the agent before all else. -/
theorem noRxStepUnlessLive : Obligations.NoRxStepUnlessLive := by
  unfold Obligations.NoRxStepUnlessLive
  intro i s hi hgone
  have hlive : s.rxLive = false := (rxLive_eq_false_iff s).2 hgone
  cases i with
  | rxStart | rxIdleDrop _ | rxStopEmit | rxDataAppend _ =>
    simp only [exec, execRxStart, execRxIdleDrop, execRxStopEmit, execRxDataAppend,
      rxByteStep_of_not_live _ _ hlive]
  | rxFail e => exact execRxFail_of_not_live e hlive
  | rxHalt => exact execRxHalt_of_not_live hlive
  | stop | rxStatus | decode _ | refresh | snapshot | enable | reset | disable | setAnswered _ _
  | blockReset => cases hi

/-- Settles O50: the two next states differ in the hidden elements only. -/
theorem hiddenStateIsNotObservable : Obligations.HiddenStateIsNotObservable := by
  unfold Obligations.HiddenStateIsNotObservable
  intro i s recording buffer budget hi
  obtain ⟨t, budget', ht, ht'⟩ := exec_setHidden recording buffer budget s hi
  exact ⟨t, setHidden recording buffer budget' t, ht, ht', rfl, rfl, rfl, rfl⟩

/-- Settles O52: of the effects only block reset and an applied frame write `ST`. -/
theorem statusIsReplacedWholeOrNotAtAll : Obligations.StatusIsReplacedWholeOrNotAtAll := by
  unfold Obligations.StatusIsReplacedWholeOrNotAtAll
  intro i s t h
  cases exec_effect h with
  | byte | fail | halt | stop | result | refused => exact .inl rfl
  | applied f v _ hf hv => exact .inr (.inr ⟨f, rfl, hf, (decodeFrame_toList f).trans hv, rfl⟩)
  | sent _ _ _ _ hsent =>
    obtain ⟨⟨-, -, -, hST, -⟩, -⟩ := hsent.frame
    exact .inl hST.symm
  | blockReset => exact .inr (.inl rfl)

/-- Settles O54: the reset state is what a block reset leaves, with the draw of index 0 as `ST`. -/
theorem invariantHoldsAtReset : Obligations.InvariantHoldsAtReset := by
  unfold Obligations.InvariantHoldsAtReset
  exact resetBlock_inv { State.reset with draws := 0 }
end

section
/-! PROOF. The statements of 20_memory.md: what each turn of the schedule runs, the reads without a side effect, the
RX side apart from the TX side, and the frame that REFRESH finds after many. -/

namespace Sys2Proof.Machine

/-! ### The step by the turn at the head of the schedule (rules R58, R100) -/

section
variable {s : State} {turns : List Turn}

theorem step_of_no_turn (h : s.schedule = []) : step s = .next s := by
  simp [step, fetch, h]

theorem step_blockReset (h : s.schedule = .blockReset :: turns) :
    step s = exec .blockReset { s with schedule := turns } := by
  simp [step, fetch, h, agentOperation]

theorem step_host_of_request {req : HostReq} {reqs : List HostReq} (h : s.schedule = .host :: turns)
    (hp : s.hostPort = req :: reqs) :
    step s = exec (hostReqInstr req) { s with schedule := turns, hostPort := reqs } := by
  simp [step, fetch, h, agentOperation, hp]

theorem step_host_of_empty (h : s.schedule = .host :: turns) (hp : s.hostPort = []) :
    step s = .next { s with schedule := turns } := by
  simp [step, fetch, h, agentOperation, hp]

theorem step_halt_of_enabled (h : s.schedule = .halt :: turns) (he : s.haltEnabled = true) :
    step s = exec .rxHalt { s with schedule := turns } := by
  have he : ({ s with schedule := turns } : State).haltEnabled = true := he
  simp [step, fetch, h, agentOperation, he]

theorem step_halt_of_disabled (h : s.schedule = .halt :: turns) (he : s.haltEnabled = false) :
    step s = .next { s with schedule := turns } := by
  have he : ({ s with schedule := turns } : State).haltEnabled = false := he
  simp [step, fetch, h, agentOperation, he]

theorem step_rx_of_enabled {ev : RxEvent} {evs : List RxEvent} (h : s.schedule = .rx :: turns)
    (hp : s.rxPort = ev :: evs) (he : s.eventEnabled ev = true) :
    step s = exec (rxEventInstr s.REC ev) { s with schedule := turns, rxPort := evs } := by
  have he : ({ s with schedule := turns, rxPort := ev :: evs } : State).eventEnabled ev = true := by
    cases ev <;> exact he
  simp [step, fetch, h, agentOperation, hp, he]

theorem step_rx_of_not_portReady (h : s.schedule = .rx :: turns) (hr : ¬ portReady s) :
    step s = .next { s with schedule := turns } := by
  cases hp : s.rxPort with
  | nil => simp [step, fetch, h, agentOperation, hp]
  | cons ev evs =>
    have he : ¬ ({ s with schedule := turns, rxPort := ev :: evs } : State).eventEnabled ev = true := by
      intro he
      exact hr ⟨ev, evs, hp, by cases ev <;> exact he⟩
    simp [step, fetch, h, agentOperation, hp, he]

end

theorem haltEnabled_iff (s : State) : s.haltEnabled = true ↔ s.rxLive = true ∧ s.STOP_REQ = true :=
  Bool.and_eq_true_iff

theorem haltEnabled_eq_false_iff (s : State) :
    s.haltEnabled = false ↔ s.rxLive = false ∨ s.STOP_REQ = false :=
  Bool.and_eq_false_iff

/-- Only a live agent may take an event of its port (rule R31). -/
theorem rxLive_of_portReady {s : State} (h : portReady s) : s.rxLive = true := by
  obtain ⟨ev, evs, -, he⟩ := h
  cases ev with
  | byte b => exact ((byteEnabled_iff s).1 he).1
  | fail e => exact he

theorem not_portReady_of_empty {s : State} (h : s.rxPort = []) : ¬ portReady s := by
  simp [portReady, h]

/-- A byte stays at the port once the budget is spent (rule R100). -/
theorem not_portReady_of_budgetSpent {s : State} {b : Byte} {evs : List RxEvent}
    (hp : s.rxPort = .byte b :: evs) (hspent : s.budgetSpent = true) : ¬ portReady s := by
  simp [portReady, hp, State.eventEnabled, State.byteEnabled, hspent]

/-! ### The reads (rule R57) -/

/-- The result of a read does not depend on the results handed back before it. -/
theorem exec_read {i : Instr} (hi : i = .snapshot ∨ i = .rxStatus ∨ ∃ frame, i = .decode frame) (s : State) :
    ∃ r, ∀ before, exec i { s with hostOut := before } = .next { s with hostOut := before ++ [r] } := by
  obtain rfl | rfl | ⟨frame, rfl⟩ := hi
  · exact ⟨.snapshot s.ST_VALID s.ST, fun _ => rfl⟩
  · exact ⟨.rxStatus s.RX_DEAD s.RX_ERR s.RX_STOPPED, fun _ => rfl⟩
  · simp only [exec, execDecode]
    cases decodeFrame frame <;> exact ⟨_, fun _ => rfl⟩

/-! ### The RX operations and the TX side (rule R62) -/

/-- The state with another TX side. -/
def setTxSide (wire : List Byte) (answers : List TxAnswer) (s : State) : State :=
  { s with txWire := wire, txAnswers := answers }

section
variable (wire : List Byte) (answers : List TxAnswer)

theorem emit_setTxSide (frame : List Byte) (s : State) :
    emit frame (setTxSide wire answers s) = setTxSide wire answers (emit frame s) := by
  unfold emit
  cases Four.ofList? frame <;> rfl

/-- A byte step does not see the TX side where its effect does not. -/
theorem rxByteStep_setTxSide (selected : Bool) {effect : State → State} (s : State)
    (h : ∀ u, effect (setTxSide wire answers u) = setTxSide wire answers (effect u)) :
    rxByteStep selected effect (setTxSide wire answers s) =
      mapNext (setTxSide wire answers) (rxByteStep selected effect s) := by
  have hlive : (setTxSide wire answers s).rxLive = s.rxLive := rfl
  have hspent : (setTxSide wire answers s).budgetSpent = s.budgetSpent := rfl
  have heffect : effect (spendBudget (setTxSide wire answers s)) =
      setTxSide wire answers (effect (spendBudget s)) := h (spendBudget s)
  simp only [rxByteStep, hlive, hspent, heffect]
  cases s.rxLive <;> cases s.budgetSpent <;> cases selected <;> rfl

theorem exec_setTxSide {i : Instr} (hi : rxOp i = true) (s : State) :
    exec i (setTxSide wire answers s) = mapNext (setTxSide wire answers) (exec i s) := by
  cases i with
  | rxStart | rxIdleDrop _ | rxDataAppend _ =>
    simp only [exec, execRxStart, execRxIdleDrop, execRxDataAppend]
    exact rxByteStep_setTxSide wire answers _ s fun _ => rfl
  | rxStopEmit =>
    simp only [exec, execRxStopEmit]
    exact rxByteStep_setTxSide wire answers _ s fun u =>
      emit_setTxSide wire answers u.BUF { u with REC := false, BUF := [] }
  | rxFail e =>
    have hlive : (setTxSide wire answers s).rxLive = s.rxLive := rfl
    simp only [exec, execRxFail, hlive]
    cases s.rxLive <;> rfl
  | rxHalt =>
    have hlive : (setTxSide wire answers s).rxLive = s.rxLive := rfl
    have hreq : (setTxSide wire answers s).STOP_REQ = s.STOP_REQ := rfl
    simp only [exec, execRxHalt, hlive, hreq]
    cases s.rxLive <;> cases s.STOP_REQ <;> rfl
  | stop | rxStatus | decode _ | refresh | snapshot | enable | reset | disable | setAnswered _ _
  | blockReset => cases hi

end

/-! ### The detector on status frames (rules R71, R74) -/

/-- A detector in a frame appends bytes without delimiters to its buffer. -/
theorem Detector.feed_delimiterFree {p : List Byte} (hp : delimiterFree p) (buffer : List Byte) :
    (Detector.mk true buffer).feed p = (⟨true, buffer ++ p⟩, []) := by
  induction p generalizing buffer with
  | nil => simp [Detector.feed]
  | cons b p ih =>
    obtain ⟨⟨hstart, hstop⟩, hp⟩ := List.forall_mem_cons.1 hp
    simp [Detector.feed, Detector.next_data hstart hstop, ih hp]

/-- A delimited payload is emitted whole, from any state of the detector. -/
theorem Detector.feed_delimited (d : Detector) {p : List Byte} (hp : delimiterFree p) :
    d.feed ([0x53#8] ++ p ++ [0x0A#8]) = (⟨false, []⟩, [p]) := by
  have hstart : d.feed [0x53#8] = (⟨true, []⟩, []) := by simp [Detector.feed, Detector.next_start]
  have hstop : (Detector.mk true p).feed [0x0A#8] = (⟨false, []⟩, [p]) := by
    simp [Detector.feed, Detector.next_stop]
  rw [Detector.feed_append, Detector.feed_append, hstart, Detector.feed_delimiterFree hp]
  simp [hstop]

/-- The detector emits every status frame of a sequence, in order. -/
theorem Detector.feed_onTheWire (d : Detector) {frames : List (Four Byte)}
    (h : ∀ f ∈ frames, delimiterFree f.toList) :
    (d.feed (frames.flatMap onTheWire)).2 = frames.map Four.toList := by
  induction frames generalizing d with
  | nil => rfl
  | cons f frames ih =>
    obtain ⟨hf, hframes⟩ := List.forall_mem_cons.1 h
    have hfirst : d.feed (onTheWire f) = (⟨false, []⟩, [f.toList]) := Detector.feed_delimited d hf
    rw [List.flatMap_cons, Detector.feed_append, hfirst, List.map_cons, ih _ hframes, List.singleton_append]

theorem length_flatMap_onTheWire (frames : List (Four Byte)) :
    (frames.flatMap onTheWire).length = 6 * frames.length := by
  induction frames with
  | nil => rfl
  | cons f frames ih =>
    have hlen : (onTheWire f).length = 6 := rfl
    rw [List.flatMap_cons, List.length_append, ih, hlen, List.length_cons]
    omega

/-- The channel keeps the last of several emitted frames (rule R59). -/
theorem latestOf_map_toList {frames : List (Four Byte)} {last : Four Byte} (h : frames.getLast? = some last)
    (old : Option (Four Byte)) : latestOf old (frames.map Four.toList) = some last := by
  have hall : (frames.map Four.toList).filterMap Four.ofList? = frames := by
    simp [List.filterMap_map, ofList?_toList]
  rw [latestOf, hall, h, Option.some_or]

/-! ### A run of the RX agent over the bytes at its port -/

/-- What a byte sequence does to the state through the detector: `afterByte` many times. -/
def afterBytes (bytes : List Byte) (s : State) : State := { s with
  REC := (s.detector.feed bytes).1.recording
  BUF := (s.detector.feed bytes).1.buffer
  MBOX := latestOf s.MBOX (s.detector.feed bytes).2
  STOP_BUDGET := if s.STOP_REQ then s.STOP_BUDGET - bytes.length else s.STOP_BUDGET }

theorem afterBytes_nil (s : State) : afterBytes [] s = s := by
  simp [afterBytes, Detector.feed, latestOf, State.detector]

theorem afterBytes_cons (b : Byte) (bytes : List Byte) (s : State) :
    afterBytes (b :: bytes) s = afterBytes bytes (afterByte b s) := by
  have hd : (afterByte b s).detector = (s.detector.next b).1 := rfl
  have hbudget : (if s.STOP_REQ then s.STOP_BUDGET - (bytes.length + 1) else s.STOP_BUDGET) =
      if s.STOP_REQ then (if s.STOP_REQ then s.STOP_BUDGET - 1 else s.STOP_BUDGET) - bytes.length
      else (if s.STOP_REQ then s.STOP_BUDGET - 1 else s.STOP_BUDGET) := by
    split <;> omega
  simp only [afterBytes, hd, Detector.feed, latestOf_toList_append, List.length_cons, hbudget]
  rfl

/-- A turn of the RX agent on a byte that it may take. -/
theorem step_rx_byte {s : State} {b : Byte} {evs : List RxEvent} {turns : List Turn}
    (h : s.schedule = .rx :: turns) (hp : s.rxPort = .byte b :: evs) (he : s.byteEnabled = true) :
    step s = .next (afterByte b { s with schedule := turns, rxPort := evs }) :=
  (step_rx_of_enabled h hp he).trans
    (exec_decodeRxByte b (s := { s with schedule := turns, rxPort := evs }) he)

/-- With a turn for each byte and budget for all of them, the RX agent takes them all (rule R100). -/
theorem run_bytes (bytes : List Byte) {s : State} {more : List RxEvent} {turns : List Turn}
    (hlive : s.rxLive = true) (hbudget : s.STOP_REQ = false ∨ bytes.length ≤ s.STOP_BUDGET)
    (hport : s.rxPort = bytes.map .byte ++ more)
    (hturns : s.schedule = List.replicate bytes.length .rx ++ turns) :
    run bytes.length s = .next { afterBytes bytes s with rxPort := more, schedule := turns } := by
  induction bytes generalizing s with
  | nil =>
    have hport : s.rxPort = more := hport
    have hturns : s.schedule = turns := hturns
    rw [afterBytes_nil, ← hport, ← hturns]
    rfl
  | cons b bytes ih =>
    have henabled : s.byteEnabled = true :=
      (byteEnabled_iff s).2 ⟨hlive, hbudget.imp_right fun h => Nat.lt_of_lt_of_le (Nat.succ_pos _) h⟩
    have hrest : s.STOP_REQ = false ∨
        bytes.length ≤ if s.STOP_REQ then s.STOP_BUDGET - 1 else s.STOP_BUDGET := by
      obtain h | h := hbudget
      · exact .inl h
      · rw [List.length_cons] at h
        exact .inr (by split <;> omega)
    have hthen := ih (s := afterByte b { s with
      rxPort := bytes.map .byte ++ more
      schedule := List.replicate bytes.length .rx ++ turns }) hlive hrest rfl rfl
    rw [afterBytes_cons]
    exact (run_succ_of_next _ (step_rx_byte hturns hport henabled)).trans hthen

/-! ### REFRESH on a frame in the channel -/

/-- REFRESH consumes the frame and applies it whole or raises its error (rule R132). -/
theorem exec_refresh_of_some {s : State} {f : Four Byte} (h : s.MBOX = some f) :
    ∃ t, exec .refresh s = .next t ∧ t.MBOX = none ∧ t.rxPort = s.rxPort ∧
      (∀ v, decodeFrame f.toList = .ok v → t.ST = v ∧ t.ST_VALID = true ∧
        ∃ changed, t.hostOut = s.hostOut ++ [.applied changed]) ∧
      (∀ e, decodeFrame f.toList = .error e → t.ST = s.ST ∧ t.ST_VALID = s.ST_VALID ∧
        t.hostOut = s.hostOut ++ [.raised e]) := by
  refine ⟨applyFrame f s, execRefresh_of_some h, ?_⟩
  obtain ⟨e, he, ht⟩ | ⟨v, hv, ht⟩ := applyFrame_cases f s
  · simp [decodeFrame_toList, he, ht]
  · simp [decodeFrame_toList, hv, ht]

end Sys2Proof.Machine

open Sys2Proof Sys2Proof.Machine

/-- Settles O34: the RX agent's turns feed the detector, which emits every frame; the one slot keeps the last, and the
host's turn runs REFRESH on it. -/
theorem refreshSeesLastOfManyFrames : Obligations.RefreshSeesLastOfManyFrames := by
  unfold Obligations.RefreshSeesLastOfManyFrames
  intro frames last s more reqs turns hlast hfree hlive hreq hport hhost hturns
  rw [← length_flatMap_onTheWire] at hturns ⊢
  have hrun := run_bytes _ hlive (.inl hreq) hport hturns
  have hslot : (afterBytes (frames.flatMap onTheWire) s).MBOX = some last :=
    (congrArg (latestOf s.MBOX) (s.detector.feed_onTheWire hfree)).trans (latestOf_map_toList hlast _)
  have hserve := step_host_of_request (s := { afterBytes (frames.flatMap onTheWire) s with
    rxPort := more
    schedule := .host :: turns }) rfl hhost
  obtain ⟨t, hrefresh, ht⟩ := exec_refresh_of_some (s := { afterBytes (frames.flatMap onTheWire) s with
    rxPort := more
    schedule := turns
    hostPort := reqs }) hslot
  exact ⟨t, (run_add_of_next 1 hrun).trans (run_succ_of_next 0 (hserve.trans hrefresh)), ht⟩

/-- Settles O42: exchanging the TX side commutes with each RX operation. -/
theorem rxStepsIgnoreTheTxSide : Obligations.RxStepsIgnoreTheTxSide := by
  unfold Obligations.RxStepsIgnoreTheTxSide
  intro i s wire answers hi
  exact exec_setTxSide wire answers hi s

/-- Settles O31: the repeated read finds one result more at the host port, and its own result does not depend on it. -/
theorem readsHaveNoSideEffect : Obligations.ReadsHaveNoSideEffect := by
  unfold Obligations.ReadsHaveNoSideEffect
  intro i s hi
  obtain ⟨r, hread⟩ := exec_read hi s
  refine ⟨r, hread s.hostOut, ?_⟩
  rw [hread (s.hostOut ++ [r]), List.append_assoc, List.singleton_append]

/-- Settles O46, turn by turn. -/
theorem stepRunsSelectedOperation : Obligations.StepRunsSelectedOperation := by
  unfold Obligations.StepRunsSelectedOperation
  intro s turns
  refine ⟨step_of_no_turn, step_blockReset, ?request, step_host_of_empty, ?halt, ?noHalt, ?byte, ?fail,
    ?noEvent, ?spent⟩
  case request =>
    intro req i reqs h hp hi
    have hreq : i = hostReqInstr req := by
      obtain ⟨_, rfl, rfl⟩ | ⟨rfl, rfl⟩ | ⟨rfl, rfl⟩ | ⟨rfl, rfl⟩ | ⟨rfl, rfl⟩ | ⟨rfl, rfl⟩ |
        ⟨_, _, rfl, rfl⟩ | ⟨rfl, rfl⟩ | ⟨rfl, rfl⟩ := hi <;> rfl
    rw [hreq, step_host_of_request h hp]
  case halt =>
    intro h hlive hreq
    exact step_halt_of_enabled h ((haltEnabled_iff s).2 ⟨hlive, hreq⟩)
  case noHalt =>
    intro h hoff
    exact step_halt_of_disabled h ((haltEnabled_eq_false_iff s).2 hoff)
  case byte =>
    intro b evs h hp hlive hbudget
    exact step_rx_of_enabled h hp ((byteEnabled_iff s).2 ⟨hlive, hbudget⟩)
  case fail =>
    intro e evs h hp hlive
    exact step_rx_of_enabled h hp hlive
  case noEvent =>
    rintro h (hp | hlive)
    · exact step_rx_of_not_portReady h (not_portReady_of_empty hp)
    · exact step_rx_of_not_portReady h fun hready =>
        Bool.false_ne_true (hlive.symm.trans (rxLive_of_portReady hready))
  case spent =>
    intro b evs h hp hreq hbudget
    exact step_rx_of_not_portReady h (not_portReady_of_budgetSpent hp ((budgetSpent_iff s).2 ⟨hreq, hbudget⟩))
end

section
/-! PROOF. The statements of 30_encoding.md: reading back what was encoded, splitting a TX stream, which byte
operation runs, and the fields of a status byte and of the packed view. -/

namespace Sys2Proof

/-! ### The RX byte table read back (rule R70) -/

/-- The operation a byte selects is one that exists, is read back there, and has the byte as its encoding. -/
theorem decodeRxByte_spec (recording : Bool) (b : Byte) :
    (decodeRxByte recording b).wellFormed = true ∧
      readWhere (.rx recording) (decodeRxByte recording b) = true ∧
      encode (decodeRxByte recording b) = some [b] := by
  obtain ⟨rfl, hi⟩ | ⟨rfl, hb, hi⟩ | ⟨rfl, rfl, hi⟩ | ⟨rfl, hb, hb', hi⟩ := decodeRxByte_cases recording b <;>
    rw [hi]
  · exact ⟨rfl, rfl, rfl⟩
  · exact ⟨bne_iff_ne.2 hb, rfl, rfl⟩
  · exact ⟨rfl, rfl, rfl⟩
  · exact ⟨Bool.and_eq_true_iff.2 ⟨bne_iff_ne.2 hb, bne_iff_ne.2 hb'⟩, rfl, rfl⟩

/-- An operation of the RX port that exists is one byte, which selects it. -/
theorem exists_decodeRxByte_eq {i : Instr} {recording : Bool} {bytes : List Byte} (hwf : i.wellFormed = true)
    (hread : readWhere (.rx recording) i = true) (henc : encode i = some bytes) :
    ∃ b, bytes = [b] ∧ decodeRxByte recording b = i := by
  cases i with
  | rxStart =>
    cases henc
    exact ⟨_, rfl, decodeRxByte_start recording⟩
  | rxIdleDrop b =>
    cases henc
    obtain rfl : recording = false := (Bool.not_eq_true' _).mp hread
    exact ⟨b, rfl, decodeRxByte_idle (bne_iff_ne.1 hwf)⟩
  | rxStopEmit =>
    cases henc
    obtain rfl : recording = true := hread
    exact ⟨_, rfl, decodeRxByte_stop⟩
  | rxDataAppend b =>
    cases henc
    obtain rfl : recording = true := hread
    obtain ⟨hstart, hstop⟩ := Bool.and_eq_true_iff.1 hwf
    exact ⟨b, rfl, decodeRxByte_data (bne_iff_ne.1 hstart) (bne_iff_ne.1 hstop)⟩
  | rxFail _ | rxHalt | stop | rxStatus | decode _ | refresh | snapshot | enable | reset | disable
  | setAnswered _ _ | blockReset => cases hread

/-! ### The commands of the TX port read back (rules R75 to R79) -/

theorem encode_instr (c : Command) : encode c.instr = encodeCommand c := by
  cases c <;> rfl

theorem wellFormed_instr (c : Command) : c.instr.wellFormed = true := by
  cases c <;> rfl

theorem readWhere_tx_iff (i : Instr) : readWhere .tx i = true ↔ ∃ c : Command, i = c.instr := by
  constructor
  · intro h
    cases i with
    | enable => exact ⟨.enable, rfl⟩
    | reset => exact ⟨.reset, rfl⟩
    | disable => exact ⟨.disable, rfl⟩
    | setAnswered idx status => exact ⟨.setAnswered idx status, rfl⟩
    | rxStart | rxIdleDrop _ | rxStopEmit | rxDataAppend _ | rxFail _ | rxHalt | stop | rxStatus | decode _
    | refresh | snapshot | blockReset => cases h
  · rintro ⟨c, rfl⟩
    cases c <;> rfl

theorem decode_tx_eq_ok_iff {bytes rest : List Byte} {i : Instr} :
    decode .tx bytes = .ok (i, rest) ↔ ∃ c : Command, i = c.instr ∧ decodeTx bytes = .ok (c, rest) := by
  cases h : decodeTx bytes with
  | error why => simp [decode, h]
  | ok read =>
    obtain ⟨c, rest'⟩ := read
    simp only [decode, h, Except.ok.injEq, Prod.mk.injEq]
    constructor
    · rintro ⟨rfl, rfl⟩
      exact ⟨c, rfl, rfl, rfl⟩
    · rintro ⟨_, rfl, rfl, rfl⟩
      exact ⟨rfl, rfl⟩

/-- A command that was read is one the encoder accepts, and its bytes are those that were read. -/
theorem encodeCommand_of_decodeTx {bytes rest : List Byte} {c : Command} (h : decodeTx bytes = .ok (c, rest)) :
    ∃ front, encodeCommand c = some front ∧ bytes = front ++ rest := by
  unfold decodeTx at h
  split at h
  · cases h
  · rename_i op tail
    split_ifs at h with henable hreset hdisable hset
    · cases h; exact ⟨_, rfl, henable ▸ rfl⟩
    · cases h; exact ⟨_, rfl, hreset ▸ rfl⟩
    · cases h; exact ⟨_, rfl, hdisable ▸ rfl⟩
    · split at h
      · rename_i idx status tail
        split_ifs at h with hidx
        cases h
        exact ⟨_, if_neg (Nat.not_lt.2 (Nat.le_of_lt_succ hidx)), hset ▸ rfl⟩
      · cases h

/-! ### The stream splitter (rule R83) -/

/-- The splitter takes the bytes of one command off the front. -/
theorem splitCommandsWithin_encodeCommand {fuel : Nat} {c : Command} {cs : List Command} {front rest : List Byte}
    (henc : encodeCommand c = some front) (hrest : splitCommandsWithin fuel rest = .ok cs) :
    splitCommandsWithin (fuel + 1) (front ++ rest) = .ok (c :: cs) := by
  have hread := decodeTx_encodeCommand henc rest
  obtain ⟨op, tail, rfl, -⟩ := encodeCommand_opcode henc
  rw [List.cons_append] at hread ⊢
  simp only [splitCommandsWithin, hread, hrest]

theorem mapM_encodeCommand_cons {c : Command} {cs : List Command} {parts : List (List Byte)}
    (h : (c :: cs).mapM encodeCommand = some parts) :
    ∃ front others, encodeCommand c = some front ∧ cs.mapM encodeCommand = some others ∧
      front :: others = parts := by
  simpa [List.mapM_cons, Option.bind_eq_some_iff] using h

/-- The splitter finds the commands with any fuel that covers the stream: each command spends one unit, and takes at
least one byte. -/
theorem splitCommandsWithin_flatten {cs : List Command} {parts : List (List Byte)}
    (henc : cs.mapM encodeCommand = some parts) {fuel : Nat} (hfuel : parts.flatten.length ≤ fuel) :
    splitCommandsWithin fuel parts.flatten = .ok cs := by
  induction cs generalizing parts fuel with
  | nil =>
    cases henc
    cases fuel <;> rfl
  | cons c cs ih =>
    obtain ⟨front, others, hc, hcs, rfl⟩ := mapM_encodeCommand_cons henc
    have hfront : 0 < front.length := by
      obtain ⟨op, tail, rfl, -⟩ := encodeCommand_opcode hc
      exact Nat.succ_pos _
    rw [List.flatten_cons, List.length_append] at hfuel
    obtain ⟨fuel, rfl⟩ : ∃ n, fuel = n + 1 := Nat.exists_eq_add_one.2 (by omega)
    exact splitCommandsWithin_encodeCommand hc (ih hcs (by omega))

namespace Machine

/-! ### What the detector emits (rule R82) -/

theorem Detector.feed_emits_delimiterFree {d : Detector} (h : delimiterFree d.buffer) {bytes frame : List Byte}
    (hframe : frame ∈ (d.feed bytes).2) : delimiterFree frame := by
  induction bytes generalizing d with
  | nil => cases hframe
  | cons b bytes ih =>
    obtain hfirst | hlater := List.mem_append.1 hframe
    · rw [Detector.next_emits_buffer (Option.mem_toList.1 hfirst)]
      exact h
    · exact ih (Detector.next_buffer_delimiterFree h b) hlater

/-! ### The fields of a status byte (rules R72, R81) -/

theorem decodeByte_and_mask (b : Byte) : decodeByte (b &&& 0xCF#8) = decodeByte b := by
  have hcode : (b &&& 0xCF#8).extractLsb' 0 4 = b.extractLsb' 0 4 := by
    rw [BitVec.extractLsb'_and]
    exact BitVec.and_allOnes
  simp [decodeByte, hcode]

theorem stateOfCode_eq_some_iff {c : BitVec 4} {st : ButtonState} :
    stateOfCode c = some st ↔ codeOfState st = c := by
  constructor
  · unfold stateOfCode
    split_ifs <;> intro h <;> cases h <;> exact Eq.symm ‹_›
  · rintro rfl
    cases st <;> rfl

/-- A status byte decodes to the entry that has its bits 7 and 6 and its state code (rule R130). -/
theorem decodeByte_eq_ok_iff {b : Byte} {v : ButtonStatus} :
    decodeByte b = .ok v ↔
      v.connected = b.getLsbD 7 ∧ v.hasAnswered = b.getLsbD 6 ∧ codeOfState v.state = b.extractLsb' 0 4 := by
  obtain ⟨connected, hasAnswered, st⟩ := v
  rw [← stateOfCode_eq_some_iff, decodeByte]
  cases stateOfCode (b.extractLsb' 0 4) <;> simp [eq_comm]

/-- A frame decodes exactly when each lane does, entry `i` from byte `i` (rule R131). -/
theorem decodeFour_eq_ok_iff {f : Four Byte} {v : Four ButtonStatus} :
    decodeFour f = .ok v ↔ ∀ i, decodeByte (f.get i) = .ok (v.get i) := by
  have hlanes : (∀ i, decodeByte (f.get i) = .ok (v.get i)) ↔
      decodeByte f.b0 = .ok v.b0 ∧ decodeByte f.b1 = .ok v.b1 ∧ decodeByte f.b2 = .ok v.b2 ∧
        decodeByte f.b3 = .ok v.b3 := by
    simp [Fin.forall_fin_succ, Four.get]
  rw [hlanes, decodeFour]
  cases decodeByte f.b0 with
  | error _ => simp
  | ok r0 =>
    cases decodeByte f.b1 with
    | error _ => simp
    | ok r1 =>
      cases decodeByte f.b2 with
      | error _ => simp
      | ok r2 =>
        cases decodeByte f.b3 with
        | error _ => simp
        | ok r3 => cases v; simp

/-! ### The packed view of the status register (rule R86) -/

/-- One button's bits, from bit 0 up: the state code, two zeros, `has_answered`, `connected`. -/
theorem getLsbD_packByte (v : ButtonStatus) (j : Nat) :
    (packByte v).getLsbD j =
      if j < 7 then
        if j < 6 then decide (j < 4) && (codeOfState v.state).getLsbD j
        else decide (j - 6 = 0) && v.hasAnswered
      else decide (j - 7 = 0) && v.connected := by
  unfold packByte
  rw [BitVec.getLsbD_append, BitVec.getLsbD_append, BitVec.getLsbD_append]
  simp

theorem packByte_connected (v : ButtonStatus) : (packByte v).getLsbD 7 = v.connected := by
  rw [getLsbD_packByte]
  simp

theorem packByte_hasAnswered (v : ButtonStatus) : (packByte v).getLsbD 6 = v.hasAnswered := by
  rw [getLsbD_packByte]
  simp

theorem packByte_code (v : ButtonStatus) : (packByte v).extractLsb' 0 4 = codeOfState v.state := by
  apply BitVec.eq_of_getLsbD_eq
  intro j hj
  rw [BitVec.getLsbD_extractLsb', getLsbD_packByte, if_pos (by omega), if_pos (by omega)]
  simp [hj]

theorem packByte_unusedBits (v : ButtonStatus) : (packByte v).extractLsb' 4 2 = 0#2 := by
  apply BitVec.eq_of_getLsbD_eq
  intro j hj
  rw [BitVec.getLsbD_extractLsb', getLsbD_packByte, if_pos (by omega), if_pos (by omega)]
  simp

theorem decodeByte_packByte (v : ButtonStatus) : decodeByte (packByte v) = .ok v :=
  decodeByte_eq_ok_iff.2
    ⟨(packByte_connected v).symm, (packByte_hasAnswered v).symm, (packByte_code v).symm⟩

/-- A status byte that decodes is packed as itself with bits 5 and 4 cleared. -/
theorem packByte_of_decodeByte {b : Byte} {v : ButtonStatus} (h : decodeByte b = .ok v) :
    packByte v = b &&& 0xCF#8 := by
  obtain ⟨hconnected, hanswered, hcode⟩ := decodeByte_eq_ok_iff.1 h
  apply BitVec.eq_of_getLsbD_eq
  intro j hj
  rw [getLsbD_packByte, hconnected, hanswered, hcode]
  interval_cases j <;> simp

/-- Byte `i` of the packed word is the packed entry `i`. -/
theorem packStatus_lane (v : Four ButtonStatus) (i : Fin 4) :
    (packStatus v).extractLsb' (8 * i.val) 8 = packByte (v.get i) := by
  have low {w start : Nat} {hi : Byte} {lo : BitVec w} (h : start + 8 ≤ w) :
      (hi ++ lo).extractLsb' start 8 = lo.extractLsb' start 8 :=
    BitVec.extractLsb'_append_eq_of_add_le h
  match i with
  | 0 => exact (low (by decide)).trans ((low (by decide)).trans BitVec.extractLsb'_append_eq_right)
  | 1 => exact (low (by decide)).trans ((low (by decide)).trans BitVec.extractLsb'_append_eq_left)
  | 2 => exact (low (by decide)).trans BitVec.extractLsb'_append_eq_left
  | 3 => exact BitVec.extractLsb'_append_eq_left

theorem packStatus_bit (v : Four ButtonStatus) (i : Fin 4) {j : Nat} (hj : j < 8) :
    (packStatus v).getLsbD (8 * i.val + j) = (packByte (v.get i)).getLsbD j := by
  rw [← packStatus_lane, BitVec.getLsbD_extractLsb', decide_eq_true hj, Bool.true_and]

theorem packStatus_field (v : Four ButtonStatus) (i : Fin 4) {start len : Nat} (h : start + len ≤ 8) :
    (packStatus v).extractLsb' (8 * i.val + start) len = (packByte (v.get i)).extractLsb' start len := by
  apply BitVec.eq_of_getLsbD_eq
  intro j hj
  rw [BitVec.getLsbD_extractLsb', BitVec.getLsbD_extractLsb', Nat.add_assoc, packStatus_bit v i (by omega)]

/-! ### What goes on the wire (rules R79, R160) -/

/-- Nothing goes on the wire but a first part of a command's bytes (rule R160). -/
theorem Effect.txWire_eq_append {i : Instr} {s t : State} (h : Effect s i t) :
    ∃ added, t.txWire = s.txWire ++ added ∧
      (added = [] ∨ ∃ c bytes, encodeCommand c = some bytes ∧ added <+: bytes) := by
  cases h with
  | byte | fail | halt | stop | result | refused | applied | blockReset =>
    exact ⟨[], (List.append_nil _).symm, .inl rfl⟩
  | sent c bytes _ hc hsent =>
    obtain ⟨-, -, -, -, -, front, -, hprefix, hwire, -⟩ := hsent.frame
    exact ⟨front, hwire, .inr ⟨c, bytes, hc, hprefix⟩⟩

/-! ### An operation offered to the next step (log entry 5) -/

theorem step_offerByte {s : State} {b : Byte} {i : Instr} (h : s.byteEnabled = true)
    (hi : decodeRxByte s.REC b = i) : step (s.offerByte b) = exec i s :=
  hi ▸ step_rx_of_enabled (s := s.offerByte b) (ev := .byte b) rfl rfl h

theorem step_offerRequest (req : HostReq) (s : State) :
    step (s.offerRequest req) = exec (hostReqInstr req) s :=
  step_host_of_request (s := s.offerRequest req) rfl rfl

theorem step_offer_command (c : Command) (s : State) : step (s.offer c.instr) = exec c.instr s := by
  cases c <;> exact step_offerRequest _ s

/-- An offered byte operation runs with `REC` at a value that selects it. -/
theorem step_offer_decodeRxByte {s : State} (h : s.byteEnabled = true) (recording : Bool) (b : Byte) :
    ∃ selecting, step (s.offer (decodeRxByte recording b)) =
      exec (decodeRxByte recording b) { s with REC := selecting } := by
  obtain ⟨-, hi⟩ | ⟨rfl, -, hi⟩ | ⟨rfl, rfl, hi⟩ | ⟨rfl, -, -, hi⟩ := decodeRxByte_cases recording b <;>
    rw [hi]
  · exact ⟨s.REC, step_offerByte h (decodeRxByte_start s.REC)⟩
  · exact ⟨false, step_offerByte (s := { s with REC := false }) h hi⟩
  · exact ⟨true, step_offerByte (s := { s with REC := true }) h hi⟩
  · exact ⟨true, step_offerByte (s := { s with REC := true }) h hi⟩

/-- A table word names a command or what its first byte selects while recording. -/
theorem decodeTableWord_eq_some {nbits w : Nat} {i : Instr} (h : decodeTableWord nbits w = some i) :
    (∃ c : Command, i = c.instr) ∨ ∃ b, i = decodeRxByte true b := by
  unfold decodeTableWord at h
  split_ifs at h
  dsimp only at h
  split at h
  · cases h; exact .inl ⟨_, rfl⟩
  · cases h; exact .inr ⟨_, rfl⟩
  · cases h

theorem hostOp_decodeRxByte (recording : Bool) (b : Byte) : hostOp (decodeRxByte recording b) = false := by
  obtain hi | hi | hi | hi := decodeRxByte_eq_or recording b <;> rw [hi] <;> rfl

end Machine

end Sys2Proof

open Sys2Proof Sys2Proof.Machine

/-- Settles O3, port by port: an RX byte selects the operation it is the encoding of, and a command is read back. -/
theorem decodeOfEncodeIsIdentity : Obligations.DecodeOfEncodeIsIdentity := by
  unfold Obligations.DecodeOfEncodeIsIdentity
  intro i sel bytes rest hwf henc hread
  cases sel with
  | rx recording =>
    obtain ⟨b, rfl, rfl⟩ := exists_decodeRxByte_eq hwf hread henc
    rfl
  | tx =>
    obtain ⟨c, rfl⟩ := (readWhere_tx_iff i).1 hread
    exact decode_tx_eq_ok_iff.2 ⟨c, rfl, decodeTx_encodeCommand ((encode_instr c).symm.trans henc) rest⟩

/-- Settles O5, by induction on the commands: the splitter takes one off the front with one unit of its fuel. -/
theorem txStreamSplitsIntoItsCommands : Obligations.TxStreamSplitsIntoItsCommands := by
  unfold Obligations.TxStreamSplitsIntoItsCommands
  intro cs parts henc
  exact splitCommandsWithin_flatten henc le_rfl

/-- Settles O4, port by port: every RX byte is the encoding of the operation it selects, and a command that was read
has the bytes that were read. -/
theorem encodeOfDecodeIsIdentity : Obligations.EncodeOfDecodeIsIdentity := by
  unfold Obligations.EncodeOfDecodeIsIdentity
  intro sel bytes rest i h
  cases sel with
  | rx recording =>
    cases bytes with
    | nil => cases h
    | cons b bytes =>
      cases h
      obtain ⟨hwf, hread, henc⟩ := decodeRxByte_spec recording b
      exact ⟨hwf, hread, [b], henc, rfl⟩
  | tx =>
    obtain ⟨c, rfl, hc⟩ := decode_tx_eq_ok_iff.1 h
    obtain ⟨front, henc, hbytes⟩ := encodeCommand_of_decodeTx hc
    exact ⟨wellFormed_instr c, (readWhere_tx_iff _).2 ⟨c, rfl⟩, front, (encode_instr c).trans henc, hbytes⟩

/-- Settles O6: what an operation adds to the wire is a first part of a command's bytes, which begin with its opcode. -/
theorem undefinedOpcodesAreNeverSent : Obligations.UndefinedOpcodesAreNeverSent := by
  unfold Obligations.UndefinedOpcodesAreNeverSent
  intro i s t h
  obtain ⟨added, hwire, rfl | ⟨c, bytes, henc, hprefix⟩⟩ := (exec_effect h).txWire_eq_append
  · exact ⟨[], hwire, nofun⟩
  · refine ⟨added, hwire, fun b hb => ?_⟩
    obtain ⟨op, tail, rfl, hlow, hhigh⟩ := encodeCommand_opcode henc
    obtain ⟨rest, rfl⟩ := List.head?_eq_some_iff.1 hb
    obtain ⟨rfl, -⟩ := List.cons_prefix_cons.1 hprefix
    exact ⟨hlow, hhigh⟩

/-- Settles O16: an operation that runs is what `REC` and some byte select, and its encoding says which byte. -/
theorem exactlyOneByteOperationRuns : Obligations.ExactlyOneByteOperationRuns := by
  unfold Obligations.ExactlyOneByteOperationRuns
  intro s b hlive hbudget recording i hread henc
  constructor
  · rintro ⟨t, hrun⟩
    obtain ⟨-, b', rfl⟩ := eq_decodeRxByte_of_enabled (exec_eq_next_imp_enabled hrun) hread
    obtain ⟨-, -, henc'⟩ := decodeRxByte_spec s.REC b'
    obtain rfl : b' = b := by simpa using henc'.symm.trans henc
    rfl
  · rintro rfl
    exact ⟨_, exec_decodeRxByte b ((byteEnabled_iff s).2 ⟨hlive, hbudget⟩)⟩

/-- Settles O23: the detector emits its buffer, which no byte brings a delimiter into. -/
theorem emittedPayloadsHoldNoDelimiter : Obligations.EmittedPayloadsHoldNoDelimiter := by
  unfold Obligations.EmittedPayloadsHoldNoDelimiter
  intro d bytes frame hbuffer hframe
  exact Detector.feed_emits_delimiterFree hbuffer hframe

/-- Settles O32: each field of the word is that field of one packed byte. -/
theorem packedViewLayout : Obligations.PackedViewLayout := by
  unfold Obligations.PackedViewLayout
  intro v i
  refine ⟨?connected, ?answered, ?unused, ?code, ?decoded⟩
  case connected => exact (packStatus_bit v i (by decide)).trans (packByte_connected _)
  case answered => exact (packStatus_bit v i (by decide)).trans (packByte_hasAnswered _)
  case unused => exact (packStatus_field v i (by decide)).trans (packByte_unusedBits _)
  case code => exact (packStatus_field v i (start := 0) (by decide)).trans (packByte_code _)
  case decoded => rw [packStatus_lane, decodeByte_packByte]

/-- Settles O33: each lane of the frame decodes on its own, and its entry is packed as its byte under the mask. -/
theorem repackingClearsIgnoredBits : Obligations.RepackingClearsIgnoredBits := by
  unfold Obligations.RepackingClearsIgnoredBits
  intro f v h i
  have hlane : decodeByte (f.get i) = .ok (v.get i) :=
    decodeFour_eq_ok_iff.1 ((decodeFrame_toList f).symm.trans h) i
  rw [packStatus_lane, packByte_of_decodeByte hlane]

/-- Settles O1, row by row of the table. -/
theorem rxByteSelectsByClassAndRec : Obligations.RxByteSelectsByClassAndRec := by
  unfold Obligations.RxByteSelectsByClassAndRec
  exact ⟨decodeRxByte_start, decodeRxByte_idle (by decide), decodeRxByte_stop,
    fun _ hstart hstop => ⟨decodeRxByte_idle hstart, decodeRxByte_data hstart hstop⟩⟩

/-- Settles O2: each word is the encoding of its operation. -/
theorem tableWordsDecode : Obligations.TableWordsDecode := by
  unfold Obligations.TableWordsDecode
  have hread (i : Instr) (sel : PortSel) (bytes : List Byte) (hwf : i.wellFormed = true)
      (henc : encode i = some bytes) (hwhere : readWhere sel i = true) : decode sel bytes = .ok (i, []) :=
    List.append_nil bytes ▸ decodeOfEncodeIsIdentity i sel bytes [] hwf henc hwhere
  and_intros <;> exact hread _ _ _ rfl rfl rfl

/-- Settles O25: the decode is that of the byte under the mask. -/
theorem bitsFiveAndFourAreIgnored : Obligations.BitsFiveAndFourAreIgnored := by
  unfold Obligations.BitsFiveAndFourAreIgnored
  intro b b' h
  rw [← decodeByte_and_mask b, h, decodeByte_and_mask]

/-- Settles O47: a command is offered at the host port, and a byte at the RX port with the `REC` that selects its
operation. -/
theorem offeredTableWordRunsNext : Obligations.OfferedTableWordRunsNext := by
  unfold Obligations.OfferedTableWordRunsNext
  intro nbits w i s hword hlive hreq
  have hoffer : s.withFetchWord nbits w = s.offer i := by rw [State.withFetchWord, hword]
  rw [hoffer]
  obtain ⟨c, rfl⟩ | ⟨b, rfl⟩ := decodeTableWord_eq_some hword
  · exact ⟨s.REC, step_offer_command c s, fun _ => rfl⟩
  · have henabled : s.byteEnabled = true := (byteEnabled_iff s).2 ⟨hlive, .inl hreq⟩
    obtain ⟨recording, hstep⟩ := step_offer_decodeRxByte henabled true b
    exact ⟨recording, hstep, fun hhost => absurd hhost (by simp [hostOp_decodeRxByte])⟩
end

section
/-! PROOF. The statements of 40_rx_framing.md: the effect of each RX operation, when an operation is enabled, the
detector on delimited payloads, and the machine's RX side as the detector, in one run of bytes and in chunks. -/

namespace Sys2Proof.Machine

/-! ### When an operation answers a next state (rules R100, R205) -/

/-- A byte operation that is enabled is the one its byte selects, which runs; a host operation has no case without a
next state. -/
theorem exists_exec_eq_next_of_enabled {i : Instr} {s : State} (h : enabled i s = true) :
    ∃ t, exec i s = .next t := by
  have byteCase {recording : Bool} (hr : readWhere (.rx recording) i = true) : ∃ t, exec i s = .next t := by
    obtain ⟨hb, b, rfl⟩ := eq_decodeRxByte_of_enabled h hr
    exact ⟨_, exec_decodeRxByte b hb⟩
  cases i with
  | rxStart | rxStopEmit | rxDataAppend _ => exact byteCase (recording := true) rfl
  | rxIdleDrop _ => exact byteCase (recording := false) rfl
  | rxFail e => exact ⟨_, (execRxFail_eq_next_iff ..).2 ⟨h, rfl⟩⟩
  | rxHalt => exact ⟨_, (execRxHalt_eq_next_iff ..).2 ⟨h, rfl⟩⟩
  | decode frame =>
    obtain ⟨r, hread⟩ := exec_read (.inr (.inr ⟨frame, rfl⟩)) s
    exact ⟨_, hread s.hostOut⟩
  | refresh =>
    cases hm : s.MBOX with
    | none => exact ⟨_, execRefresh_of_none hm⟩
    | some f => exact ⟨_, execRefresh_of_some hm⟩
  | stop | rxStatus | snapshot | enable | reset | disable | setAnswered _ _ | blockReset => exact ⟨_, rfl⟩

/-- Every host operation is enabled in every state (rule R205). -/
theorem enabled_of_hostOp {i : Instr} (hi : hostOp i = true) (s : State) : enabled i s = true := by
  cases i with
  | rxStart | rxIdleDrop _ | rxStopEmit | rxDataAppend _ | rxFail _ | rxHalt | blockReset => cases hi
  | stop | rxStatus | decode _ | refresh | snapshot | enable | reset | disable | setAnswered _ _ => rfl

theorem rxByteStep_of_budgetSpent (selected : Bool) (effect : State → State) {s : State}
    (hlive : s.rxLive = true) (hspent : s.budgetSpent = true) :
    rxByteStep selected effect s = .fault .stopBudgetSpent := by
  simp [rxByteStep, hlive, hspent]

/-- An emission writes the channel and nothing else (rule R105). -/
theorem emit_eq (frame : List Byte) (s : State) :
    emit frame s = { s with MBOX := (Four.ofList? frame).or s.MBOX } := by
  unfold emit
  cases Four.ofList? frame <;> rfl

/-! ### The detector from a start delimiter on (rules R101, R112) -/

/-- A start delimiter forgets the state of the detector and emits nothing. -/
theorem Detector.feed_start (d : Detector) (bytes : List Byte) :
    d.feed (0x53#8 :: bytes) = (Detector.mk true []).feed bytes := by
  simp [Detector.feed, Detector.next_start]

/-! ### What a host request leaves of the RX side (rules R58, R110) -/

/-- The elements that decide what the RX agent does with a byte, and the channel, are the same in both states. -/
structure SameRxSide (s t : State) : Prop where
  detector : t.detector = s.detector
  mailbox : t.MBOX = s.MBOX
  live : t.rxLive = s.rxLive
  stopRequest : t.STOP_REQ = s.STOP_REQ
  stopBudget : t.STOP_BUDGET = s.STOP_BUDGET

theorem SameRxSide.refl (s : State) : SameRxSide s s := ⟨rfl, rfl, rfl, rfl, rfl⟩

theorem SameRxSide.trans {s t u : State} (h : SameRxSide s t) (h' : SameRxSide t u) : SameRxSide s u where
  detector := h'.detector.trans h.detector
  mailbox := h'.mailbox.trans h.mailbox
  live := h'.live.trans h.live
  stopRequest := h'.stopRequest.trans h.stopRequest
  stopBudget := h'.stopBudget.trans h.stopBudget

theorem SameRxSide.of_sameBlock {s t : State} (h : SameBlock s t) : SameRxSide s t := by
  obtain ⟨hREC, hBUF, hMBOX, -, -, hDEAD, -, hREQ, hBUDGET, hSTOPPED⟩ := h
  constructor
  · simp [State.detector, hREC, hBUF]
  · exact hMBOX.symm
  · simp [State.rxLive, hDEAD, hSTOPPED]
  · exact hREQ.symm
  · exact hBUDGET.symm

/-- What waits at the ports, and the turns to come, are not of the RX side. -/
theorem SameRxSide.of_queues {s t : State} {events : List RxEvent} {reqs : List HostReq} {turns : List Turn}
    (h : SameRxSide { s with rxPort := events, hostPort := reqs, schedule := turns } t) : SameRxSide s t :=
  ⟨h.detector, h.mailbox, h.live, h.stopRequest, h.stopBudget⟩

/-- The same bytes do the same to the same RX side. -/
theorem SameRxSide.afterBytes {s t : State} (h : SameRxSide s t) (bytes : List Byte) :
    SameRxSide (afterBytes bytes s) (afterBytes bytes t) where
  detector := congrArg (fun d : Detector => (d.feed bytes).1) h.detector
  mailbox := by simp only [Machine.afterBytes, h.detector, h.mailbox]
  live := h.live
  stopRequest := h.stopRequest
  stopBudget := by simp only [Machine.afterBytes, h.stopRequest, h.stopBudget]

/-- A host operation but REFRESH, and but a STOP that is accepted, adds one result and leaves the RX side and the queues
alone. -/
theorem Effect.sameRxSide {i : Instr} {s t : State} (h : Effect s i t) (hi : hostOp i = true)
    (hrefresh : i ≠ .refresh) (hstop : i = .stop → s.STOP_REQ = true) :
    SameRxSide s t ∧ t.rxPort = s.rxPort ∧ t.hostPort = s.hostPort ∧ t.schedule = s.schedule ∧
      t.hostOut.length = s.hostOut.length + 1 := by
  cases h with
  | byte b _ => simp [hostOp_decodeRxByte] at hi
  | fail | halt | blockReset => cases hi
  | stop _ _ hreq => exact absurd (hstop rfl) (by simp [hreq])
  | result _ _ r => exact ⟨.of_sameBlock (by simp [SameBlock]), rfl, rfl, rfl, List.length_append⟩
  | refused | applied => exact absurd rfl hrefresh
  | sent _ _ _ _ hsent =>
    obtain ⟨hblock, hport, hhost, hturns, -, -, r, -, -, hout⟩ := hsent.frame
    exact ⟨.of_sameBlock hblock, hport, hhost, hturns, by rw [hout, List.length_append, List.length_singleton]⟩

theorem hostOp_hostReqInstr (req : HostReq) : hostOp (hostReqInstr req) = true := by
  cases req <;> rfl

theorem hostReqInstr_eq_refresh_iff (req : HostReq) : hostReqInstr req = .refresh ↔ req = .refresh := by
  cases req <;> simp [hostReqInstr]

theorem hostReqInstr_eq_stop_iff (req : HostReq) : hostReqInstr req = .stop ↔ req = .stop := by
  cases req <;> simp [hostReqInstr]

/-! ### Runs of the two agents in turn (rules R58, R110) -/

/-- A turn of the host agent serves the request at the head of its port. -/
theorem step_host_sameRxSide {s : State} {req : HostReq} {reqs : List HostReq} {turns : List Turn}
    (hport : s.hostPort = req :: reqs) (hturns : s.schedule = .host :: turns)
    (hrefresh : req ≠ .refresh) (hstop : req = .stop → s.STOP_REQ = true) :
    ∃ t, step s = .next t ∧ SameRxSide s t ∧ t.rxPort = s.rxPort ∧ t.hostPort = reqs ∧ t.schedule = turns ∧
      t.hostOut.length = s.hostOut.length + 1 := by
  have hi := hostOp_hostReqInstr req
  obtain ⟨t, ht⟩ := exists_exec_eq_next_of_enabled
    (enabled_of_hostOp hi { s with schedule := turns, hostPort := reqs })
  obtain ⟨hside, hrest⟩ := (exec_effect ht).sameRxSide hi (mt (hostReqInstr_eq_refresh_iff req).1 hrefresh)
    fun h => hstop ((hostReqInstr_eq_stop_iff req).1 h)
  exact ⟨t, (step_host_of_request hturns hport).trans ht, hside.of_queues, hrest⟩

/-- With a turn for each request, the host agent has a result for each. -/
theorem run_requests (reqs : List HostReq) {s : State} {more : List HostReq} {turns : List Turn}
    (hrefresh : .refresh ∉ reqs) (hstop : .stop ∈ reqs → s.STOP_REQ = true)
    (hport : s.hostPort = reqs ++ more)
    (hturns : s.schedule = List.replicate reqs.length .host ++ turns) :
    ∃ t, run reqs.length s = .next t ∧ SameRxSide s t ∧ t.rxPort = s.rxPort ∧ t.hostPort = more ∧
      t.schedule = turns ∧ t.hostOut.length = s.hostOut.length + reqs.length := by
  induction reqs generalizing s with
  | nil => exact ⟨s, rfl, .refl s, rfl, hport, hturns, rfl⟩
  | cons req reqs ih =>
    obtain ⟨hfirst, hothers⟩ := List.ne_and_not_mem_of_not_mem_cons hrefresh
    obtain ⟨u, hstep, hside, hevents, huport, huturns, huout⟩ := step_host_sameRxSide hport hturns hfirst.symm
      fun h => hstop (h ▸ List.mem_cons_self)
    obtain ⟨t, hrun, htside, htevents, htport, htturns, htout⟩ := ih hothers
      (fun h => hside.stopRequest.trans (hstop (List.mem_cons_of_mem _ h))) huport huturns
    refine ⟨t, (run_succ_of_next _ hstep).trans hrun, hside.trans htside, htevents.trans hevents, htport,
      htturns, ?_⟩
    rw [htout, huout, List.length_cons]
    omega

theorem length_chunkTurns (part : List Byte × List HostReq) :
    (chunkTurns part).length = part.1.length + part.2.length := by
  simp [chunkTurns]

/-- One chunk: the RX agent takes its bytes, then the host agent serves its requests. -/
theorem run_chunk (part : List Byte × List HostReq) {s : State} {more : List RxEvent} {reqs : List HostReq}
    {turns : List Turn} (hrefresh : .refresh ∉ part.2) (hstop : .stop ∈ part.2 → s.STOP_REQ = true)
    (hlive : s.rxLive = true) (hbudget : s.STOP_REQ = false ∨ part.1.length ≤ s.STOP_BUDGET)
    (hport : s.rxPort = part.1.map .byte ++ more) (hhost : s.hostPort = part.2 ++ reqs)
    (hturns : s.schedule = chunkTurns part ++ turns) :
    ∃ t, run (chunkTurns part).length s = .next t ∧
      SameRxSide (afterBytes part.1 s) t ∧ t.rxPort = more ∧ t.hostPort = reqs ∧ t.schedule = turns ∧
      t.hostOut.length = s.hostOut.length + part.2.length := by
  rw [chunkTurns, List.append_assoc] at hturns
  have hbytes := run_bytes part.1 hlive hbudget hport hturns
  obtain ⟨t, hrun, hside, hrest⟩ := run_requests part.2 (s := { afterBytes part.1 s with
    rxPort := more
    schedule := List.replicate part.2.length .host ++ turns }) hrefresh hstop hhost rfl
  rw [length_chunkTurns]
  exact ⟨t, (run_add_of_next _ hbytes).trans hrun, hside.of_queues, hrest⟩

theorem afterBytes_append (xs ys : List Byte) (s : State) :
    afterBytes (xs ++ ys) s = afterBytes ys (afterBytes xs s) := by
  induction xs generalizing s with
  | nil => rw [afterBytes_nil, List.nil_append]
  | cons x xs ih => rw [List.cons_append, afterBytes_cons, afterBytes_cons, ih]

/-- Only the whole byte sequence counts, however it is cut into chunks. -/
theorem run_chunks (parts : List (List Byte × List HostReq)) {s : State} {more : List RxEvent}
    {reqs : List HostReq} {turns : List Turn} (hrefresh : ∀ p ∈ parts, .refresh ∉ p.2)
    (hstop : ∀ p ∈ parts, .stop ∈ p.2 → s.STOP_REQ = true) (hlive : s.rxLive = true)
    (hbudget : s.STOP_REQ = false ∨ (parts.flatMap (·.1)).length ≤ s.STOP_BUDGET)
    (hport : s.rxPort = (parts.flatMap (·.1)).map .byte ++ more)
    (hhost : s.hostPort = parts.flatMap (·.2) ++ reqs)
    (hturns : s.schedule = parts.flatMap chunkTurns ++ turns) :
    ∃ t, run (parts.flatMap chunkTurns).length s = .next t ∧
      SameRxSide (afterBytes (parts.flatMap (·.1)) s) t ∧ t.rxPort = more ∧ t.hostPort = reqs ∧
      t.schedule = turns ∧ t.hostOut.length = s.hostOut.length + (parts.flatMap (·.2)).length := by
  induction parts generalizing s with
  | nil =>
    refine ⟨s, rfl, ?_, hport, hhost, hturns, rfl⟩
    rw [List.flatMap_nil, afterBytes_nil]
    exact .refl s
  | cons part parts ih =>
    obtain ⟨hrefresh, hrefreshes⟩ := List.forall_mem_cons.1 hrefresh
    obtain ⟨hstop, hstops⟩ := List.forall_mem_cons.1 hstop
    simp only [List.flatMap_cons, List.map_append, List.append_assoc, List.length_append]
      at hbudget hport hhost hturns ⊢
    obtain ⟨u, hrun, hside, huport, huhost, huturns, huout⟩ :=
      run_chunk part hrefresh hstop hlive (hbudget.imp_right fun h => by omega) hport hhost hturns
    have hrest : u.STOP_REQ = false ∨ (parts.flatMap (·.1)).length ≤ u.STOP_BUDGET := by
      rw [hside.stopRequest, hside.stopBudget]
      simp only [afterBytes]
      exact hbudget.imp_right fun h => by split <;> omega
    obtain ⟨t, hthen, htside, htport, hthost, htturns, htout⟩ := ih hrefreshes
      (fun p hp h => hside.stopRequest.trans (hstops p hp h)) (hside.live.trans hlive) hrest huport
      huhost huturns
    refine ⟨t, (run_add_of_next _ hrun).trans hthen, ?_, htport, hthost, htturns,
      by rw [htout, huout, Nat.add_assoc]⟩
    rw [afterBytes_append]
    exact (hside.afterBytes _).trans htside

end Sys2Proof.Machine

open Sys2Proof Sys2Proof.Machine

/-- Settles O19, by induction on the bytes: each turn does to the state what its byte does to the detector. -/
theorem rxRunRefinesDetector : Obligations.RxRunRefinesDetector := by
  unfold Obligations.RxRunRefinesDetector
  intro bytes s more turns hlive hbudget hport hturns
  exact run_bytes bytes hlive hbudget hport hturns

/-- Settles O20, by induction on the chunks: the requests after a chunk leave the RX side as its bytes left it, and
bytes fed in two parts are fed as one sequence. -/
theorem chunkSplitInvariance : Obligations.ChunkSplitInvariance := by
  unfold Obligations.ChunkSplitInvariance
  intro parts s more reqs turns hrefresh hlive hadmitted hport hhost hturns
  have hstop : ∀ p ∈ parts, .stop ∈ p.2 → s.STOP_REQ = true := by
    obtain ⟨-, hnone⟩ | ⟨hreq, -⟩ := hadmitted
    · exact fun p hp h => absurd h (hnone p hp)
    · exact fun _ _ _ => hreq
  obtain ⟨t, hrun, hside, hrest⟩ := run_chunks parts hrefresh hstop hlive
    (hadmitted.imp And.left And.right) hport hhost hturns
  exact ⟨t, hrun, congrArg Detector.recording hside.detector, congrArg Detector.buffer hside.detector,
    hside.mailbox, hrest⟩

/-- Settles O21: the start delimiter opens an empty frame, the payload fills it, and the stop delimiter emits it. -/
theorem framingRoundTrip : Obligations.FramingRoundTrip := by
  unfold Obligations.FramingRoundTrip
  intro d p hp
  refine ⟨?_, ?_, ?_⟩
  · rw [List.singleton_append, Detector.feed_start, Detector.feed_delimiterFree hp]
  · rw [Detector.feed_delimited d hp]
  · rw [Detector.feed_delimited d hp]

/-- Settles O22: the start delimiter brings every detector to the same state. -/
theorem startDelimiterResynchronises : Obligations.StartDelimiterResynchronises := by
  unfold Obligations.StartDelimiterResynchronises
  intro d d' before before' after
  simp only [Detector.feed_append, Detector.feed_start, and_self]

/-- Settles O48: what runs is enabled, and each enabled operation has a next state. -/
theorem operationRunsExactlyWhenEnabled : Obligations.OperationRunsExactlyWhenEnabled := by
  unfold Obligations.OperationRunsExactlyWhenEnabled
  intro i s
  exact ⟨fun ⟨_, h⟩ => exec_eq_next_imp_enabled h, exists_exec_eq_next_of_enabled⟩

/-- Settles O7: the byte step of the operation, which nothing but the agent and the budget can disable. -/
theorem rxStartBeginsFrame : Obligations.RxStartBeginsFrame := by
  unfold Obligations.RxStartBeginsFrame
  intro s hlive hbudget
  rw [exec, execRxStart, rxByteStep_of_enabled _ ((byteEnabled_iff s).2 ⟨hlive, hbudget⟩)]
  rfl

/-- Settles O8: outside a frame every byte but the start delimiter selects the operation. -/
theorem rxIdleDropDiscardsByte : Obligations.RxIdleDropDiscardsByte := by
  unfold Obligations.RxIdleDropDiscardsByte
  intro b s hlive hbudget hrec hstart
  have hselected : (decodeRxByte s.REC b == .rxIdleDrop b) = true := by
    rw [hrec, decodeRxByte_idle hstart, beq_self_eq_true]
  rw [exec, execRxIdleDrop, hselected, rxByteStep_of_enabled _ ((byteEnabled_iff s).2 ⟨hlive, hbudget⟩)]
  rfl

/-- Settles O9: the emission writes the channel exactly where the buffer has the length of a frame. -/
theorem rxStopEmitPushesFourByteFrame : Obligations.RxStopEmitPushesFourByteFrame := by
  unfold Obligations.RxStopEmitPushesFourByteFrame
  intro s hlive hbudget hrec
  refine ⟨(Four.ofList? s.BUF).or s.MBOX, ?_, ?_, ?_⟩
  · rw [exec, execRxStopEmit, hrec, rxByteStep_of_enabled _ ((byteEnabled_iff s).2 ⟨hlive, hbudget⟩), emit_eq]
    rfl
  · intro a b c d hbuf
    rw [hbuf]
    rfl
  · intro hlen
    rw [ofList?_of_length_ne hlen, Option.none_or]

/-- Settles O10: in a frame every byte but the delimiters selects the operation. -/
theorem rxDataAppendExtendsBuffer : Obligations.RxDataAppendExtendsBuffer := by
  unfold Obligations.RxDataAppendExtendsBuffer
  intro b s hlive hbudget hrec hstart hstop
  have hselected : (decodeRxByte s.REC b == .rxDataAppend b) = true := by
    rw [hrec, decodeRxByte_data hstart hstop, beq_self_eq_true]
  rw [exec, execRxDataAppend, hselected, rxByteStep_of_enabled _ ((byteEnabled_iff s).2 ⟨hlive, hbudget⟩)]
  rfl

/-- Settles O11: a live agent is all that the operation needs. -/
theorem rxFailKillsAgentOnly : Obligations.RxFailKillsAgentOnly := by
  unfold Obligations.RxFailKillsAgentOnly
  intro e s hlive
  exact (execRxFail_eq_next_iff ..).2 ⟨hlive, rfl⟩

/-- Settles O13: the condition of the operation does not read the budget. -/
theorem rxHaltStopsAgentOnly : Obligations.RxHaltStopsAgentOnly := by
  unfold Obligations.RxHaltStopsAgentOnly
  intro s hlive hreq
  exact (execRxHalt_eq_next_iff ..).2 ⟨(haltEnabled_iff s).2 ⟨hlive, hreq⟩, rfl⟩

/-- Settles O14: the drawn budget is a value of `Fin (READ_MAX + 1)`. -/
theorem stopRequestsOnce : Obligations.StopRequestsOnce := by
  unfold Obligations.StopRequestsOnce
  intro s
  constructor
  · intro hignored
    exact execStop_of_ignored (by simpa [or_assoc] using hignored)
  · intro hdead hstopped hreq
    exact ⟨_, Nat.le_of_lt_succ (Config.stopBudget s.draws).isLt,
      execStop_of_accepted (by simp [hdead, hstopped, hreq])⟩

/-- Settles O15: the operation hands back the three fields and does nothing else. -/
theorem rxStatusReportsReader : Obligations.RxStatusReportsReader := by
  unfold Obligations.RxStatusReportsReader
  exact fun _ => rfl

/-- Settles O18: the byte operations test the budget before the selection, and the two others do not test it. -/
theorem spentBudgetLeavesFailAndHalt : Obligations.SpentBudgetLeavesFailAndHalt := by
  unfold Obligations.SpentBudgetLeavesFailAndHalt
  intro s hlive hreq hbudget
  have hbyte (selected : Bool) (effect : State → State) :
      rxByteStep selected effect s = .fault .stopBudgetSpent :=
    rxByteStep_of_budgetSpent selected effect hlive ((budgetSpent_iff s).2 ⟨hreq, hbudget⟩)
  simp only [exec, execRxStart, execRxIdleDrop, execRxStopEmit, execRxDataAppend, hbyte, implies_true, true_and]
  exact ⟨fun e => ⟨_, rxFailKillsAgentOnly e s hlive⟩, ⟨_, rxHaltStopsAgentOnly s hlive hreq⟩⟩
end

section
/-! PROOF. The statements of 41_status_decode.md: the fields of a status byte through its masks, the lanes of DECODE
and their errors, REFRESH and SNAPSHOT, and the outputs that only grow. -/

namespace Sys2Proof.Machine

/-! ### The status byte through its masks (rule R130) -/

/-- A mask of one bit reads that bit. -/
theorem and_twoPow_bne_zero (b : Byte) {i : Nat} (hi : i < 8) :
    (b &&& BitVec.twoPow 8 i != 0#8) = b.getLsbD i := by
  rw [BitVec.and_twoPow]
  cases b.getLsbD i with
  | false => simp
  | true =>
    have hne : BitVec.twoPow 8 i ≠ 0#8 := fun h => by simpa [hi] using congrArg (BitVec.getLsbD · i) h
    simp [hne]

theorem and_lowMask (b : Byte) : b &&& 0x0F#8 = (b.extractLsb' 0 4).setWidth 8 := by
  apply BitVec.eq_of_getLsbD_eq
  intro j hj
  interval_cases j <;> simp

/-- A byte whose low four bits are a state code decodes to that state. -/
theorem decodeByte_of_and_lowMask {b : Byte} {st : ButtonState}
    (h : b &&& 0x0F#8 = (codeOfState st).setWidth 8) :
    decodeByte b = .ok ⟨b &&& 0x80#8 != 0#8, b &&& 0x40#8 != 0#8, st⟩ := by
  have hcode : codeOfState st = b.extractLsb' 0 4 := by
    rw [and_lowMask] at h
    bv_omega
  exact decodeByte_eq_ok_iff.2
    ⟨and_twoPow_bne_zero b (i := 7) (by decide), and_twoPow_bne_zero b (i := 6) (by decide), hcode⟩

/-- A byte whose low four bits are no state's code fails with them. -/
theorem decodeByte_of_no_state {b : Byte} (h : ∀ st, codeOfState st ≠ b.extractLsb' 0 4) :
    decodeByte b = .error (.invalidState (b.extractLsb' 0 4)) := by
  have hnone : stateOfCode (b.extractLsb' 0 4) = none :=
    Option.eq_none_iff_forall_ne_some.2 fun st hst => h st (stateOfCode_eq_some_iff.1 hst)
  rw [decodeByte, hnone]

/-! ### The lanes of DECODE (rules R131, R134) -/

theorem decodeFrame_of_length_ne {frame : List Byte} (h : frame.length ≠ 4) :
    decodeFrame frame = .error .wrongLength := by
  rw [decodeFrame, ofList?_of_length_ne h]

theorem toList_eq_get (f : Four Byte) : f.toList = [f.get 0, f.get 1, f.get 2, f.get 3] := rfl

/-- A frame fails with the error of its lowest failing lane (decision D9). -/
theorem decodeFour_eq_error_iff {f : Four Byte} {e : BlockError} :
    decodeFour f = .error e ↔
      ∃ i, decodeByte (f.get i) = .error e ∧ ∀ j, j < i → ∃ r, decodeByte (f.get j) = .ok r := by
  have hlowest : (∃ i, decodeByte (f.get i) = .error e ∧ ∀ j, j < i → ∃ r, decodeByte (f.get j) = .ok r) ↔
      decodeByte f.b0 = .error e ∨
        (decodeByte f.b1 = .error e ∧ ∃ r, decodeByte f.b0 = .ok r) ∨
        (decodeByte f.b2 = .error e ∧ (∃ r, decodeByte f.b0 = .ok r) ∧ ∃ r, decodeByte f.b1 = .ok r) ∨
        (decodeByte f.b3 = .error e ∧ (∃ r, decodeByte f.b0 = .ok r) ∧ (∃ r, decodeByte f.b1 = .ok r) ∧
          ∃ r, decodeByte f.b2 = .ok r) := by
    simp [Fin.exists_fin_succ, Fin.forall_fin_succ, Four.get]
  rw [hlowest, decodeFour]
  cases decodeByte f.b0 with
  | error _ => simp
  | ok r0 =>
    cases decodeByte f.b1 with
    | error _ => simp
    | ok r1 =>
      cases decodeByte f.b2 with
      | error _ => simp
      | ok r2 => cases decodeByte f.b3 <;> simp

theorem execDecode_of_ok {frame : List Byte} {v : Four ButtonStatus} (h : decodeFrame frame = .ok v)
    (s : State) : execDecode frame s = .next (answer (.decoded v) s) := by
  rw [execDecode, h]

theorem execDecode_of_error {frame : List Byte} {e : BlockError} (h : decodeFrame frame = .error e)
    (s : State) : execDecode frame s = .next (raise e s) := by
  rw [execDecode, h]

/-! ### REFRESH by the decode of its frame (rule R132) -/

theorem applyFrame_of_ok {f : Four Byte} {v : Four ButtonStatus} (h : decodeFour f = .ok v) (s : State) :
    applyFrame f s = answer (.applied (!s.ST_VALID || v != s.ST || s.REFRESH_REPORTS_IDENTICAL))
      { s with MBOX := none, ST := v, ST_VALID := true } := by
  rw [applyFrame, h]

theorem applyFrame_of_error {f : Four Byte} {e : BlockError} (h : decodeFour f = .error e) (s : State) :
    applyFrame f s = raise e { s with MBOX := none } := by
  rw [applyFrame, h]

/-! ### The outputs (rules R133, R200) -/

/-- An operation takes no result back: it hands back one more or none. -/
theorem Effect.hostOut_prefix {i : Instr} {s t : State} (h : Effect s i t) : s.hostOut <+: t.hostOut := by
  cases h with
  | byte | fail | halt | blockReset => exact List.prefix_rfl
  | stop | result | refused | applied => exact List.prefix_append _ _
  | sent _ _ _ _ hsent =>
    obtain ⟨-, -, -, -, -, -, r, -, -, hout⟩ := hsent.frame
    exact ⟨[r], hout.symm⟩

theorem Effect.txWire_prefix {i : Instr} {s t : State} (h : Effect s i t) : s.txWire <+: t.txWire := by
  obtain ⟨added, hwire, -⟩ := h.txWire_eq_append
  exact ⟨added, hwire.symm⟩

end Sys2Proof.Machine

open Sys2Proof Sys2Proof.Machine

/-- Settles O26: the length is tested first, then the lanes from the lowest on. -/
theorem decodeIsFourLanesLowestErrorFirst : Obligations.DecodeIsFourLanesLowestErrorFirst := by
  unfold Obligations.DecodeIsFourLanesLowestErrorFirst
  refine ⟨fun _ => decodeFrame_of_length_ne, fun f => ?_⟩
  rw [← toList_eq_get, decodeFrame_toList]
  exact ⟨fun _ => decodeFour_eq_ok_iff, fun _ => decodeFour_eq_error_iff⟩

/-- Settles O28, by the channel and then by the decode of its frame. -/
theorem refreshAppliesLatestFrame : Obligations.RefreshAppliesLatestFrame := by
  unfold Obligations.RefreshAppliesLatestFrame
  intro s
  refine ⟨execRefresh_of_none, fun f hf => ?_⟩
  rw [← toList_eq_get, decodeFrame_toList, exec, execRefresh_of_some hf]
  constructor
  · intro v hv
    rw [applyFrame_of_ok hv]
    refine ⟨_, rfl, ?_⟩
    simp only [Bool.or_eq_true, Bool.not_eq_true', bne_iff_ne]
    tauto
  · intro e he
    rw [applyFrame_of_error he]
    rfl

/-- Settles O53: the fetch leaves the outputs as they are, and each effect of the operation it selects appends to
them. -/
theorem outputsOnlyGrow : Obligations.OutputsOnlyGrow := by
  unfold Obligations.OutputsOnlyGrow
  intro s t hstep
  obtain ⟨-, hwire, hout, -⟩ := fetch_spec s
  rw [← hwire, ← hout]
  obtain ⟨-, rfl⟩ | ⟨i, -, hexec⟩ := step_cases hstep
  · exact ⟨List.prefix_rfl, List.prefix_rfl⟩
  · exact ⟨(exec_effect hexec).hostOut_prefix, (exec_effect hexec).txWire_prefix⟩

/-- Settles O24: the low mask gives the state code, and where no state has that code it is the error. -/
theorem decodeByteReadsMaskedFields : Obligations.DecodeByteReadsMaskedFields := by
  unfold Obligations.DecodeByteReadsMaskedFields
  intro b
  refine ⟨decodeByte_of_and_lowMask (st := .disabled), decodeByte_of_and_lowMask (st := .enabled),
    decodeByte_of_and_lowMask (st := .answered), fun h1 h2 h3 => ⟨b.extractLsb' 0 4, ?_, ?_⟩⟩
  · rw [and_lowMask, BitVec.toNat_setWidth_of_le (by decide)]
  · refine decodeByte_of_no_state fun st hst => ?_
    rw [and_lowMask, ← hst] at h1 h2 h3
    cases st with
    | disabled => exact h1 rfl
    | enabled => exact h2 rfl
    | answered => exact h3 rfl

/-- Settles O27, by the decode of the operand. -/
theorem decodeAnswersAndWritesNothing : Obligations.DecodeAnswersAndWritesNothing := by
  unfold Obligations.DecodeAnswersAndWritesNothing
  intro frame s
  cases h : decodeFrame frame with
  | ok v => exact ⟨.decoded v, execDecode_of_ok h s, by simp, nofun⟩
  | error e => exact ⟨.raised e, execDecode_of_error h s, nofun, by simp⟩

/-- Settles O29: four entries read one by one are the register. -/
theorem snapshotReportsStatus : Obligations.SnapshotReportsStatus := by
  unfold Obligations.SnapshotReportsStatus
  intro s
  have hentries : (⟨s.ST.get 0, s.ST.get 1, s.ST.get 2, s.ST.get 3⟩ : Four ButtonStatus) = s.ST := rfl
  rw [hentries]
  rfl
end

section
/-! PROOF. The statements of 42_command_encode.md: what a send operation writes, and that it behaves alike in two states
in which the provider answers alike. -/

namespace Sys2Proof.Machine

/-! ### A send operation (rules R160, R167) -/

theorem exec_command (c : Command) (s : State) : exec c.instr s = .next (sendCommand c s) := by
  cases c <;> rfl

theorem sendCommand_of_none {c : Command} (hc : encodeCommand c = none) (s : State) :
    sendCommand c s = raise .invalidButtonIndex s := by
  rw [sendCommand, hc]

theorem sendCommand_of_some {c : Command} {bytes : List Byte} (hc : encodeCommand c = some bytes) (s : State) :
    sendCommand c s = txWrite bytes s := by
  rw [sendCommand, hc]

theorem encodeCommand_setAnswered {idx : Byte} (h : idx.toNat ≤ 3) (status : Byte) :
    encodeCommand (.setAnswered idx status) = some [0x04#8, idx, status] :=
  if_neg (Nat.not_lt.2 h)

/-- The send operation of a command with an encoding offers it to the provider, in every state. -/
theorem exec_command_written {c : Command} {bytes : List Byte} (hc : encodeCommand c = some bytes) (s : State) :
    ∃ t, exec c.instr s = .next t ∧ TxWritten bytes s t := by
  refine ⟨txWrite bytes s, ?_, txWrite_written bytes s⟩
  rw [exec_command, sendCommand_of_some hc]

theorem sendCommand_sameBlock (c : Command) (s : State) : SameBlock s (sendCommand c s) := by
  obtain ⟨-, hraise⟩ | ⟨_, -, hwritten⟩ := sendCommand_cases c s
  · simp [hraise, SameBlock]
  · exact hwritten.frame.1

/-! ### Two states in which the provider answers alike (rule R165) -/

/-- The provider's coming answers are the same: equal scripts, and equal counters of the free values past their end. -/
def SameAnswers (s s' : State) : Prop := s.txAnswers = s'.txAnswers ∧ s.draws = s'.draws

theorem SameAnswers.providerAnswer_eq {s s' : State} (h : SameAnswers s s') :
    providerAnswer s = providerAnswer s' := by
  obtain ⟨hscript, hdraws⟩ := h
  simp only [providerAnswer, hscript, hdraws]

theorem SameAnswers.useAnswer {s s' : State} (h : SameAnswers s s') :
    SameAnswers (useAnswer s) (useAnswer s') := by
  obtain ⟨hscript, hdraws⟩ := h
  unfold Machine.useAnswer
  rw [← hscript]
  cases hs : s.txAnswers with
  | nil => exact ⟨rfl, congrArg (· + 1) hdraws⟩
  | cons _ rest => exact ⟨rfl, hdraws⟩

/-- `t` and `t'` add the same bytes to the wires of `s` and `s'` and the same result for the host, and leave the
provider's coming answers alike. -/
def SentAlike (s t s' t' : State) : Prop :=
  (∃ added, t.txWire = s.txWire ++ added ∧ t'.txWire = s'.txWire ++ added) ∧
    (∃ r, t.hostOut = s.hostOut ++ [r] ∧ t'.hostOut = s'.hostOut ++ [r]) ∧ SameAnswers t t'

theorem SameAnswers.raise_sentAlike {s s' : State} (h : SameAnswers s s') (e : BlockError) :
    SentAlike s (raise e s) s' (raise e s') :=
  ⟨⟨[], by simp⟩, ⟨.raised e, rfl, rfl⟩, h⟩

/-- What a `TxWrite` adds is a function of the bytes and the provider's answer. -/
theorem SameAnswers.txWrite_sentAlike {s s' : State} (h : SameAnswers s s') (bytes : List Byte) :
    SentAlike s (txWrite bytes s) s' (txWrite bytes s') := by
  have hanswer := h.providerAnswer_eq
  refine ⟨⟨carried (providerAnswer s) bytes, rfl, ?_⟩, ⟨answerResult (providerAnswer s), ?_, ?_⟩, h.useAnswer⟩
  · simp [txWrite, hanswer]
  · simp [txWrite]
  · simp [txWrite, hanswer]

theorem SameAnswers.sendCommand_sentAlike {s s' : State} (h : SameAnswers s s') (c : Command) :
    SentAlike s (sendCommand c s) s' (sendCommand c s') := by
  cases hc : encodeCommand c with
  | none => rw [sendCommand_of_none hc, sendCommand_of_none hc]; exact h.raise_sentAlike _
  | some bytes => rw [sendCommand_of_some hc, sendCommand_of_some hc]; exact h.txWrite_sentAlike bytes

end Sys2Proof.Machine

open Sys2Proof Sys2Proof.Machine

/-- Settles O41: a send refuses its index in both states, or writes the same bytes to the same answer. -/
theorem sendsIgnoreTheRxSide : Obligations.SendsIgnoreTheRxSide := by
  unfold Obligations.SendsIgnoreTheRxSide
  intro c s s' hscript hdraws
  have halike : SameAnswers s s' := ⟨hscript, hdraws⟩
  obtain ⟨⟨added, hwire, hwire'⟩, ⟨r, hout, hout'⟩, hscript', hdraws'⟩ := halike.sendCommand_sentAlike c
  exact ⟨_, _, added, r, exec_command c s, exec_command c s', hwire, hwire', hout, hout', hscript', hdraws',
    sendCommand_sameBlock c s, sendCommand_sameBlock c s'⟩

/-- Settles O35, by the encoding of the command. -/
theorem enableWritesOpcodeOne : Obligations.EnableWritesOpcodeOne :=
  exec_command_written (c := .enable) rfl

/-- Settles O36, by the encoding of the command. -/
theorem resetCommandWritesOpcodeTwo : Obligations.ResetCommandWritesOpcodeTwo :=
  exec_command_written (c := .reset) rfl

/-- Settles O37, by the encoding of the command. -/
theorem disableWritesOpcodeThree : Obligations.DisableWritesOpcodeThree :=
  exec_command_written (c := .disable) rfl

/-- Settles O38: an index of at most 3 passes the encoder's one test (rule R168). -/
theorem setAnsweredWritesThreeBytes : Obligations.SetAnsweredWritesThreeBytes :=
  fun _ status s hidx => exec_command_written (encodeCommand_setAnswered hidx status) s

end

section
/-! PROOF. The statements of 60_exceptions.md: a failed reader along a run, the two errors of a send operation, and the
error codes. -/

namespace Sys2Proof.Machine

/-! ### Steps and runs without a block reset (rule R201) -/

/-- An operation takes and gives no turn. -/
theorem Effect.schedule_eq {i : Instr} {s t : State} (h : Effect s i t) : t.schedule = s.schedule := by
  cases h with
  | byte | fail | halt | stop | result | refused | applied | blockReset => rfl
  | sent _ _ _ _ hsent =>
    obtain ⟨-, -, -, hturns, -⟩ := hsent.frame
    exact hturns

/-- A step uses up at most the turn at the head of the schedule. -/
theorem schedule_of_step {s t : State} (h : step s = .next t) : t.schedule = s.schedule.tail := by
  obtain ⟨-, -, -, -, -, hturns, -⟩ := fetch_spec s
  obtain ⟨-, rfl⟩ | ⟨i, -, hexec⟩ := step_cases h
  · exact hturns
  · exact (exec_effect hexec).schedule_eq.trans hturns

/-- Only its own turn selects a block reset. -/
theorem ne_blockReset_of_fetch {s : State} {i : Instr} (h : (fetch s).1 = some i)
    (hturns : Turn.blockReset ∉ s.schedule) : i ≠ .blockReset := by
  rintro rfl
  obtain ⟨-, -, -, -, -, -, hselected⟩ := fetch_spec s
  obtain ⟨b, hi, -⟩ | ⟨e, hi, -⟩ | ⟨-, ⟨hi, -⟩ | hi | ⟨-, hhead⟩⟩ := hselected _ h
  · obtain hb | hb | hb | hb := decodeRxByte_eq_or s.REC b <;> rw [hb] at hi <;> cases hi
  · cases hi
  · cases hi
  · cases hi
  · exact hturns (List.mem_of_head? hhead)

/-- What every step without a block reset keeps holds along every run without one. -/
theorem run_keeps {P : State → Prop}
    (hkeeps : ∀ s t, Turn.blockReset ∉ s.schedule → P s → step s = .next t → P t)
    {n : Nat} {s t : State} (hturns : Turn.blockReset ∉ s.schedule) (hs : P s) (hrun : run n s = .next t) : P t := by
  induction n generalizing s with
  | zero => cases hrun; exact hs
  | succ n ih =>
    obtain ⟨u, hstep, hrest⟩ := exists_step_of_run hrun
    have huturns : Turn.blockReset ∉ u.schedule := by
      rw [schedule_of_step hstep]
      exact mt List.mem_of_mem_tail hturns
    exact ih huturns (hkeeps s u hturns hs hstep) hrest

/-! ### A failed reader (rule R184) -/

/-- The RX agent is dead of the read failure `e`. -/
def ReaderFailed (e : IoErr) (s : State) : Prop := s.RX_DEAD = true ∧ s.RX_ERR = some e

/-- Only a read failure writes the two elements, and a dead agent cannot fail again. -/
theorem ReaderFailed.after_exec {e : IoErr} {i : Instr} {s t : State} (h : ReaderFailed e s) (hi : i ≠ .blockReset)
    (hexec : exec i s = .next t) : ReaderFailed e t := by
  obtain ⟨hdead, herr⟩ := h
  obtain ⟨-, -, -, howner, -⟩ := onlyOwnersWrite i s t hexec hi
  have hkept : ¬ (t.RX_DEAD ≠ s.RX_DEAD ∨ t.RX_ERR ≠ s.RX_ERR) := by
    intro hwritten
    obtain ⟨e', rfl⟩ := howner hwritten
    obtain ⟨halive, -⟩ := (rxLive_iff s).1 (exec_eq_next_imp_enabled hexec)
    exact Bool.false_ne_true (halive.symm.trans hdead)
  obtain ⟨hdead', herr'⟩ := not_or.1 hkept
  exact ⟨(not_not.1 hdead').trans hdead, (not_not.1 herr').trans herr⟩

theorem ReaderFailed.of_sameBlock {e : IoErr} {s t : State} (h : ReaderFailed e s) (hblock : SameBlock s t) :
    ReaderFailed e t := by
  obtain ⟨hdead, herr⟩ := h
  obtain ⟨-, -, -, -, -, hdead', herr', -⟩ := hblock
  exact ⟨hdead'.symm.trans hdead, herr'.symm.trans herr⟩

theorem ReaderFailed.after_step {e : IoErr} {s t : State} (hturns : Turn.blockReset ∉ s.schedule)
    (h : ReaderFailed e s) (hstep : step s = .next t) : ReaderFailed e t := by
  have hfetched : ReaderFailed e (fetch s).2 := h.of_sameBlock (fetch_spec s).1
  obtain ⟨-, rfl⟩ | ⟨i, hi, hexec⟩ := step_cases hstep
  · exact hfetched
  · exact hfetched.after_exec (ne_blockReset_of_fetch hi hturns) hexec

/-! ### The errors of a send operation (rules R183, R185) -/

theorem encodeCommand_setAnswered_of_index_gt {idx : Byte} (h : 3 < idx.toNat) (status : Byte) :
    encodeCommand (.setAnswered idx status) = none :=
  if_pos h

/-- The provider has one answer to the next `TxWrite`. -/
theorem ProviderAnswers.eq_providerAnswer {s s' : State} {a : TxAnswer} (h : ProviderAnswers s a s') :
    a = providerAnswer s := by
  unfold providerAnswer
  obtain ⟨rest, hscript, -⟩ | ⟨hscript, ha, -⟩ := h <;> rw [hscript]
  exact ha

/-- The one result of a `TxWrite` is the provider's answer. -/
theorem txWrite_hostOut (bytes : List Byte) (s : State) :
    (txWrite bytes s).hostOut = s.hostOut ++ [answerResult (providerAnswer s)] := by
  simp [txWrite]

/-! ### The error codes (rule R180) -/

theorem BlockError.code_ne_zero (e : BlockError) : e.code ≠ 0 := by
  cases e with
  | wrongLength | invalidState | invalidButtonIndex | readIoError | writeIoError => exact Nat.succ_ne_zero _

/-- Code 0 is the code of every result but an error. -/
theorem HostResult.code_eq_zero_iff (r : HostResult) : r.code = 0 ↔ ∀ e, r ≠ .raised e := by
  cases r with
  | raised e => exact ⟨fun hcode => absurd hcode e.code_ne_zero, fun hne => absurd rfl (hne e)⟩
  | decoded | empty | applied | snapshot | ok | rxStatus => exact ⟨fun _ => nofun, fun _ => rfl⟩

end Sys2Proof.Machine

open Sys2Proof Sys2Proof.Machine

/-- Settles O12: the failure writes two elements, which each later step but a block reset keeps; no host operation has a
condition. -/
theorem readFailureIsFatalToReaderOnly : Obligations.ReadFailureIsFatalToReaderOnly := by
  unfold Obligations.ReadFailureIsFatalToReaderOnly
  intro e s hlive
  refine ⟨_, rxFailKillsAgentOnly e s hlive, rfl, rfl, rfl, rfl, rfl, ?completes, rfl, ?stays⟩
  case completes => exact fun i hi => exists_exec_eq_next_of_enabled (enabled_of_hostOp hi _)
  case stays =>
    intro n u hturns hrun
    exact run_keeps (P := ReaderFailed e) (fun _ _ => ReaderFailed.after_step) hturns ⟨rfl, rfl⟩ hrun

/-- Settles O39: the encoder refuses the index, and the refusal does nothing but raise its error. -/
theorem setAnsweredRefusesHighIndex : Obligations.SetAnsweredRefusesHighIndex := by
  unfold Obligations.SetAnsweredRefusesHighIndex
  intro idx status s hidx
  have hrefused := encodeCommand_setAnswered_of_index_gt hidx status
  exact (exec_command (.setAnswered idx status) s).trans (congrArg _ (sendCommand_of_none hrefused s))

/-- Settles O40: a send operation writes no element of the block, and hands back the provider's answer. -/
theorem writeFailureReturnsToCallerOnly : Obligations.WriteFailureReturnsToCallerOnly := by
  unfold Obligations.WriteFailureReturnsToCallerOnly
  intro c s s' e sent hc hanswer
  obtain ⟨bytes, hbytes⟩ := Option.isSome_iff_exists.1 hc
  refine ⟨_, exec_command c s, ?_, sendCommand_sameBlock c s⟩
  rw [sendCommand_of_some hbytes, txWrite_hostOut, ← hanswer.eq_providerAnswer, answerResult]

/-- Settles O43: the codes are those of the definition, and the code of an error is never 0. -/
theorem errorCodes : Obligations.ErrorCodes := by
  unfold Obligations.ErrorCodes
  exact ⟨rfl, fun _ => rfl, rfl, fun _ => rfl, fun _ => rfl, HostResult.code_eq_zero_iff⟩

end

section
/-! PROOF. The statements of 70_reset_and_hazards.md: block reset, the reader at rest until the next one, the bytes
taken after a stop request, and what a weakly fair run brings to each agent. -/

namespace Sys2Proof.Machine

/-! ### Every step answers (rule R212) -/

/-- Each turn finds its agent without a step, or runs an operation that is enabled. -/
theorem exists_step_eq_next (s : State) : ∃ t, step s = .next t := by
  cases hturns : s.schedule with
  | nil => exact ⟨s, step_of_no_turn hturns⟩
  | cons turn turns =>
    cases turn with
    | rx =>
      by_cases hready : portReady s
      · obtain ⟨ev, evs, hport, henabled⟩ := hready
        rw [step_rx_of_enabled hturns hport henabled]
        cases ev with
        | byte b => exact ⟨_, exec_decodeRxByte b (s := { s with schedule := turns, rxPort := evs }) henabled⟩
        | fail e => exact ⟨_, (execRxFail_eq_next_iff ..).2 ⟨henabled, rfl⟩⟩
      · exact ⟨_, step_rx_of_not_portReady hturns hready⟩
    | halt =>
      cases henabled : s.haltEnabled with
      | true =>
        rw [step_halt_of_enabled hturns henabled]
        exact ⟨_, (execRxHalt_eq_next_iff ..).2 ⟨henabled, rfl⟩⟩
      | false => exact ⟨_, step_halt_of_disabled hturns henabled⟩
    | host =>
      cases hport : s.hostPort with
      | nil => exact ⟨_, step_host_of_empty hturns hport⟩
      | cons req reqs =>
        rw [step_host_of_request hturns hport]
        exact exists_exec_eq_next_of_enabled (enabled_of_hostOp (hostOp_hostReqInstr req) _)
    | blockReset => exact ⟨_, step_blockReset hturns⟩

/-! ### What an operation leaves at the ports, and what a host operation leaves of the reader -/

/-- An operation takes and gives nothing at the input ports: the fetch has taken its event or request. -/
theorem Effect.ports_eq {i : Instr} {s t : State} (h : Effect s i t) :
    t.rxPort = s.rxPort ∧ t.hostPort = s.hostPort := by
  cases h with
  | byte | fail | halt | stop | result | refused | applied | blockReset => exact ⟨rfl, rfl⟩
  | sent _ _ _ _ hsent =>
    obtain ⟨-, hrx, hhost, -⟩ := hsent.frame
    exact ⟨hrx, hhost⟩

/-- A host operation hands back exactly one result (rule R205). -/
theorem Effect.exists_result_of_hostOp {i : Instr} {s t : State} (h : Effect s i t) (hi : hostOp i = true) :
    ∃ r, t.hostOut = s.hostOut ++ [r] := by
  cases h with
  | byte b _ => simp [hostOp_decodeRxByte] at hi
  | fail | halt | blockReset => cases hi
  | stop | result | refused | applied => exact ⟨_, rfl⟩
  | sent _ _ _ _ hsent =>
    obtain ⟨-, -, -, -, -, -, r, -, -, hout⟩ := hsent.frame
    exact ⟨r, hout⟩

/-- The RX agent's own elements (rule R32) are the same in both states, and nothing was pushed. -/
structure ReaderUntouched (s t : State) : Prop where
  recording : t.REC = s.REC
  buffer : t.BUF = s.BUF
  dead : t.RX_DEAD = s.RX_DEAD
  error : t.RX_ERR = s.RX_ERR
  stopped : t.RX_STOPPED = s.RX_STOPPED
  nothingPushed : t.MBOX = s.MBOX ∨ t.MBOX = none

theorem ReaderUntouched.of_sameBlock {s t : State} (h : SameBlock s t) : ReaderUntouched s t := by
  obtain ⟨hREC, hBUF, hMBOX, -, -, hDEAD, hERR, -, -, hSTOPPED⟩ := h
  exact ⟨hREC.symm, hBUF.symm, hDEAD.symm, hERR.symm, hSTOPPED.symm, .inl hMBOX.symm⟩

theorem ReaderUntouched.trans {s t u : State} (h : ReaderUntouched s t) (h' : ReaderUntouched t u) :
    ReaderUntouched s u where
  recording := h'.recording.trans h.recording
  buffer := h'.buffer.trans h.buffer
  dead := h'.dead.trans h.dead
  error := h'.error.trans h.error
  stopped := h'.stopped.trans h.stopped
  nothingPushed := by
    obtain hkept | hempty := h'.nothingPushed
    · rw [hkept]
      exact h.nothingPushed
    · exact .inr hempty

theorem ReaderUntouched.rxLive_eq {s t : State} (h : ReaderUntouched s t) : t.rxLive = s.rxLive := by
  simp only [State.rxLive, h.dead, h.stopped]

theorem Effect.readerUntouched_of_hostOp {i : Instr} {s t : State} (h : Effect s i t) (hi : hostOp i = true) :
    ReaderUntouched s t := by
  cases h with
  | byte b _ => simp [hostOp_decodeRxByte] at hi
  | fail | halt | blockReset => cases hi
  | stop | result => exact ⟨rfl, rfl, rfl, rfl, rfl, .inl rfl⟩
  | refused | applied => exact ⟨rfl, rfl, rfl, rfl, rfl, .inr rfl⟩
  | sent _ _ _ _ hsent => exact .of_sameBlock hsent.frame.1

/-! ### The channel between two REFRESHes (rules R57, R206) -/

/-- What the given operations keep holds after a sequence of them. -/
theorem runOps_keeps {P : State → Prop} {ops : List Instr}
    (hkeeps : ∀ i ∈ ops, ∀ s t, P s → exec i s = .next t → P t) {s t : State} (hs : P s)
    (hrun : runOps ops s = .next t) : P t := by
  induction ops generalizing s with
  | nil => cases hrun; exact hs
  | cons i rest ih =>
    unfold runOps at hrun
    split at hrun
    · exact ih (fun j hj => hkeeps j (List.mem_cons_of_mem _ hj)) (hkeeps i List.mem_cons_self _ _ hs ‹_›) hrun
    · cases hrun
    · cases hrun

/-- Only RX_STOP_EMIT fills an empty channel (rules R105, R206). -/
theorem Effect.mailbox_stays_empty {i : Instr} {s t : State} (h : Effect s i t) (hi : i ≠ .rxStopEmit)
    (hs : s.MBOX = none) : t.MBOX = none := by
  cases h with
  | byte b _ => exact (afterByte_MBOX_of_ne_rxStopEmit hi).trans hs
  | fail | halt | stop | result => exact hs
  | refused | applied | blockReset => rfl
  | sent _ _ _ _ hsent =>
    obtain ⟨⟨-, -, hMBOX, -⟩, -⟩ := hsent.frame
    exact hMBOX.symm.trans hs

/-- REFRESH leaves the channel empty, also when it raises an error (rule R132). -/
theorem exec_refresh_empties_mailbox (s : State) : ∃ t, exec .refresh s = .next t ∧ t.MBOX = none := by
  cases hm : s.MBOX with
  | none => exact ⟨_, execRefresh_of_none hm, hm⟩
  | some f =>
    obtain ⟨t, hexec, hempty, -⟩ := exec_refresh_of_some hm
    exact ⟨t, hexec, hempty⟩

/-! ### A reader at rest (rule R201) -/

/-- On an agent that is not live, a turn but block reset selects a host operation or nothing, and takes no event. -/
theorem fetch_of_not_live {s : State} (hlive : s.rxLive = false)
    (hhead : s.schedule.head? ≠ some .blockReset) :
    (fetch s).2.rxPort = s.rxPort ∧ ∀ i, (fetch s).1 = some i → hostOp i = true := by
  have hnot : ¬ s.rxLive = true := ne_true_of_eq_false hlive
  obtain ⟨-, -, -, -, -, -, hselected⟩ := fetch_spec s
  cases hi : (fetch s).1 with
  | none => exact ⟨fetch_none_rxPort hi, nofun⟩
  | some i =>
    obtain ⟨b, -, henabled, -⟩ | ⟨e, -, henabled, -⟩ | ⟨hport, ⟨-, henabled⟩ | hhost | ⟨-, hreset⟩⟩ :=
      hselected i hi
    · exact absurd ((byteEnabled_iff s).1 henabled).1 hnot
    · exact absurd henabled hnot
    · exact absurd ((haltEnabled_iff s).1 henabled).1 hnot
    · exact ⟨hport, by rintro _ ⟨⟩; exact hhost⟩
    · exact absurd hreset hhead

/-- The reader takes no step: its elements and its port are as they were. -/
theorem readerUntouched_of_step {s t : State} (hlive : s.rxLive = false)
    (hhead : s.schedule.head? ≠ some .blockReset) (hstep : step s = .next t) :
    ReaderUntouched s t ∧ t.rxPort = s.rxPort := by
  have hfetched : ReaderUntouched s (fetch s).2 := .of_sameBlock (fetch_spec s).1
  obtain ⟨hport, hhost⟩ := fetch_of_not_live hlive hhead
  obtain ⟨-, rfl⟩ | ⟨i, hi, hexec⟩ := step_cases hstep
  · exact ⟨hfetched, hport⟩
  · have heffect := exec_effect hexec
    exact ⟨hfetched.trans (heffect.readerUntouched_of_hostOp (hhost i hi)), heffect.ports_eq.1.trans hport⟩

theorem head_ne_blockReset {s : State} (hturns : Turn.blockReset ∉ s.schedule) :
    s.schedule.head? ≠ some .blockReset :=
  fun hhead => hturns (List.mem_of_head? hhead)

/-- The reader has taken no step from `s` to `t`. -/
def AtRestSince (s t : State) : Prop := ReaderUntouched s t ∧ t.rxPort = s.rxPort

theorem AtRestSince.refl (s : State) : AtRestSince s s :=
  ⟨⟨rfl, rfl, rfl, rfl, rfl, .inl rfl⟩, rfl⟩

theorem AtRestSince.after_step {s t u : State} (hlive : s.rxLive = false)
    (hturns : Turn.blockReset ∉ t.schedule) (h : AtRestSince s t) (hstep : step t = .next u) : AtRestSince s u := by
  obtain ⟨huntouched, hport⟩ := h
  obtain ⟨hafter, hport'⟩ := readerUntouched_of_step (huntouched.rxLive_eq.trans hlive)
    (head_ne_blockReset hturns) hstep
  exact ⟨huntouched.trans hafter, hport'.trans hport⟩

/-! ### The stop budget pays for each byte taken (rules R100, R208) -/

/-- How many bytes the operation takes from the RX port: one if it is a byte operation (rule R100). -/
def bytesTaken : Instr → Nat
  | .rxStart | .rxIdleDrop _ | .rxStopEmit | .rxDataAppend _ => 1
  | .rxFail _ | .rxHalt | .stop | .rxStatus | .decode _ | .refresh | .snapshot | .enable | .reset
  | .disable | .setAnswered _ _ | .blockReset => 0

theorem bytesTaken_decodeRxByte (recording : Bool) (b : Byte) :
    bytesTaken (decodeRxByte recording b) = 1 := by
  obtain hi | hi | hi | hi := decodeRxByte_eq_or recording b <;> rw [hi] <;> rfl

theorem bytesTaken_of_hostOp {i : Instr} (hi : hostOp i = true) : bytesTaken i = 0 := by
  cases i with
  | rxStart | rxIdleDrop _ | rxStopEmit | rxDataAppend _ => cases hi
  | rxFail _ | rxHalt | stop | rxStatus | decode _ | refresh | snapshot | enable | reset | disable
  | setAnswered _ _ | blockReset => rfl

theorem hostOp_commandInstr (c : Command) : hostOp c.instr = true := by
  cases c <;> rfl

theorem bytesWaiting_byte_cons (b : Byte) (evs : List RxEvent) :
    bytesWaiting (.byte b :: evs) = bytesWaiting evs + 1 :=
  List.countP_cons_of_pos rfl

theorem bytesWaiting_fail_cons (e : IoErr) (evs : List RxEvent) :
    bytesWaiting (.fail e :: evs) = bytesWaiting evs :=
  List.countP_cons_of_neg Bool.false_ne_true

/-- The fetch takes from the RX port the bytes of the operation that it selects. -/
theorem bytesWaiting_of_fetch {s : State} {i : Instr} (h : (fetch s).1 = some i) :
    bytesWaiting s.rxPort = bytesWaiting (fetch s).2.rxPort + bytesTaken i := by
  obtain ⟨-, -, -, -, -, -, hselected⟩ := fetch_spec s
  obtain ⟨b, rfl, -, hport⟩ | ⟨e, rfl, -, hport⟩ | ⟨hport, hi⟩ := hselected i h
  · rw [hport, bytesWaiting_byte_cons, bytesTaken_decodeRxByte]
  · rw [hport, bytesWaiting_fail_cons]
    rfl
  · have hnone : bytesTaken i = 0 := by
      obtain ⟨rfl, -⟩ | hhost | ⟨rfl, -⟩ := hi
      · rfl
      · exact bytesTaken_of_hostOp hhost
      · rfl
    rw [hport, hnone, Nat.add_zero]

/-- A block reset is selected by its own turn alone. -/
theorem head_of_fetch_blockReset {s : State} (h : (fetch s).1 = some .blockReset) :
    s.schedule.head? = some .blockReset := by
  obtain ⟨-, -, -, -, -, -, hselected⟩ := fetch_spec s
  obtain ⟨b, hi, -⟩ | ⟨e, hi, -⟩ | ⟨-, ⟨hi, -⟩ | hi | ⟨-, hhead⟩⟩ := hselected _ h
  · have hcount := congrArg bytesTaken hi
    rw [bytesTaken_decodeRxByte] at hcount
    cases hcount
  · cases hi
  · cases hi
  · cases hi
  · exact hhead

/-- From `s` to `t` the stop request stands, and the budget has paid for the `taken` bytes. -/
structure PaidFor (taken : Nat) (s t : State) : Prop where
  stopRequested : t.STOP_REQ = true
  budget : s.STOP_BUDGET = t.STOP_BUDGET + taken

theorem PaidFor.of_sameBlock {s t : State} (hreq : s.STOP_REQ = true) (h : SameBlock s t) : PaidFor 0 s t := by
  obtain ⟨-, -, -, -, -, -, -, hREQ, hBUDGET, -⟩ := h
  exact ⟨hREQ.symm.trans hreq, hBUDGET⟩

/-- A byte that a stopping agent may take spends one unit (rule R100). -/
theorem afterByte_paidFor (b : Byte) {s : State} (hreq : s.STOP_REQ = true) (henabled : s.byteEnabled = true) :
    PaidFor 1 s (afterByte b s) := by
  obtain ⟨-, hoff | hbudget⟩ := (byteEnabled_iff s).1 henabled
  · rw [hreq] at hoff
    cases hoff
  · refine ⟨hreq, ?_⟩
    simp only [afterByte, hreq, if_true]
    omega

/-- After a stop request only a byte operation writes the budget, and it spends one unit (rules R100, R107). -/
theorem Effect.paidFor {i : Instr} {s t : State} (h : Effect s i t) (hreq : s.STOP_REQ = true)
    (hi : i ≠ .blockReset) : PaidFor (bytesTaken i) s t := by
  cases h with
  | byte b henabled =>
    rw [bytesTaken_decodeRxByte]
    exact afterByte_paidFor b hreq henabled
  | fail | halt | refused | applied => exact ⟨hreq, rfl⟩
  | stop _ _ hoff =>
    rw [hreq] at hoff
    cases hoff
  | result _ hhost _ =>
    rw [bytesTaken_of_hostOp hhost]
    exact ⟨hreq, rfl⟩
  | sent c _ _ _ hsent =>
    rw [bytesTaken_of_hostOp (hostOp_commandInstr c)]
    exact .of_sameBlock hreq hsent.frame.1
  | blockReset => exact absurd rfl hi

/-- A step but a block reset takes some bytes, one or none, and the budget pays for them. -/
theorem step_paidFor {s t : State} (hreq : s.STOP_REQ = true)
    (hhead : s.schedule.head? ≠ some .blockReset) (hstep : step s = .next t) :
    ∃ taken, bytesWaiting s.rxPort = bytesWaiting t.rxPort + taken ∧ PaidFor taken s t := by
  have hblock := (fetch_spec s).1
  have hfetched := PaidFor.of_sameBlock hreq hblock
  obtain ⟨hnone, rfl⟩ | ⟨i, hi, hexec⟩ := step_cases hstep
  · exact ⟨0, by rw [fetch_none_rxPort hnone, Nat.add_zero], hfetched⟩
  · have heffect := exec_effect hexec
    have hreset : i ≠ .blockReset := by
      rintro rfl
      exact hhead (head_of_fetch_blockReset hi)
    have hpaid := heffect.paidFor hfetched.stopRequested hreset
    refine ⟨bytesTaken i, ?_, hpaid.stopRequested, hfetched.budget.trans hpaid.budget⟩
    rw [heffect.ports_eq.1]
    exact bytesWaiting_of_fetch hi

/-- A stop was requested, and from `s` to `t` as many bytes have left the RX port as units of the budget were spent. -/
structure PaidSince (s t : State) : Prop where
  stopRequested : t.STOP_REQ = true
  balance : bytesWaiting s.rxPort + t.STOP_BUDGET = bytesWaiting t.rxPort + s.STOP_BUDGET

theorem PaidSince.after_step {s t u : State} (hturns : Turn.blockReset ∉ t.schedule) (h : PaidSince s t)
    (hstep : step t = .next u) : PaidSince s u := by
  obtain ⟨hreq, hbalance⟩ := h
  obtain ⟨taken, htaken, hreq', hbudget⟩ := step_paidFor hreq (head_ne_blockReset hturns) hstep
  exact ⟨hreq', by omega⟩

/-! ### Endless runs (rule R58) -/

/-- What the turns from `n` on and the environment keep holds before each turn from `n` on. -/
theorem Run.keeps (r : Run) {P : State → Prop} {n : Nat}
    (hsteps : ∀ m, n ≤ m → P (r.before m) → P (r.after m)) (hsupplied : ∀ s t, Supplied s t → P s → P t)
    (hn : P (r.before n)) : ∀ m, n ≤ m → P (r.before m) := by
  intro m hm
  induction m, hm using Nat.le_induction with
  | base => exact hn
  | succ m hm ih => exact hsupplied _ _ (r.supplied m) (hsteps m hm ih)

theorem Run.head_ne (r : Run) {n : Nat} {turn : Turn} (h : r.turn n ≠ turn) :
    (r.before n).schedule.head? ≠ some turn := by
  rw [r.turn_is_next n]
  exact mt Option.some.inj h

/-! ### The RX agent in a fair run after a stop request (rule R211) -/

/-- A stop was requested, and at most `budget` bytes may still be taken. -/
structure Stopping (budget : Nat) (s : State) : Prop where
  stopRequested : s.STOP_REQ = true
  withinBudget : s.STOP_BUDGET ≤ budget

theorem Stopping.of_paidFor {budget taken : Nat} {s t : State} (h : Stopping budget s) (hpaid : PaidFor taken s t) :
    Stopping budget t :=
  ⟨hpaid.stopRequested, (Nat.le.intro hpaid.budget.symm).trans h.withinBudget⟩

theorem Stopping.of_supplied {budget : Nat} {s t : State} (hsupplied : Supplied s t) (h : Stopping budget s) :
    Stopping budget t :=
  h.of_paidFor (.of_sameBlock h.stopRequested hsupplied.1)

theorem Stopping.after_step {budget : Nat} {s t : State} (h : Stopping budget s)
    (hhead : s.schedule.head? ≠ some .blockReset) (hstep : step s = .next t) : Stopping budget t := by
  obtain ⟨taken, -, hpaid⟩ := step_paidFor h.stopRequested hhead hstep
  exact h.of_paidFor hpaid

/-- A step of a stopping RX agent ends it, by RX_HALT or a read failure, or spends budget on a byte. -/
theorem rx_moves_ends_or_spends {turn : Turn} {s t : State} (hhead : s.schedule.head? = some turn)
    (hreq : s.STOP_REQ = true) (hmoves : Agent.rx.moves turn s) (hstep : step s = .next t) :
    t.rxLive = false ∨ t.STOP_BUDGET < s.STOP_BUDGET := by
  obtain ⟨turns, hturns⟩ := List.head?_eq_some_iff.1 hhead
  obtain ⟨rfl, henabled⟩ | ⟨rfl, ev, evs, hport, henabled⟩ := hmoves
  · rw [step_halt_of_enabled hturns henabled] at hstep
    obtain ⟨-, rfl⟩ := (execRxHalt_eq_next_iff ..).1 hstep
    exact .inl ((rxLive_eq_false_iff _).2 (.inr rfl))
  · cases ev with
    | byte b =>
      rw [step_rx_byte hturns hport henabled] at hstep
      cases hstep
      have hpaid := afterByte_paidFor b (s := { s with schedule := turns, rxPort := evs }) hreq henabled
      exact .inr (Nat.lt_of_succ_le hpaid.budget.ge)
    | fail e =>
      rw [step_rx_of_enabled hturns hport henabled] at hstep
      obtain ⟨-, rfl⟩ := (execRxFail_eq_next_iff ..).1 hstep
      exact .inl ((rxLive_eq_false_iff _).2 (.inl rfl))

/-- A fair stopping RX agent ends: while it is live RX_HALT is enabled, so it moves, and it can spend only what is left
of the budget. -/
theorem Run.rx_ends_within_budget (r : Run) (hfair : r.WeaklyFairTo .rx) {budget n : Nat}
    (hstopping : Stopping budget (r.before n)) (hturns : ∀ m, n ≤ m → r.turn m ≠ .blockReset) :
    ∃ m, n ≤ m ∧ (r.before m).rxLive = false := by
  induction budget using Nat.strong_induction_on generalizing n with
  | _ budget ih =>
    by_contra! hnever
    have hlive : ∀ m, n ≤ m → (r.before m).rxLive = true :=
      fun m hm => Bool.eq_true_of_not_eq_false (hnever m hm)
    have hkept : ∀ m, n ≤ m → Stopping budget (r.before m) :=
      r.keeps (fun m hm h => h.after_step (r.head_ne (hturns m hm)) (r.steps m))
        (fun _ _ => Stopping.of_supplied) hstopping
    obtain ⟨m, hm, hmoves⟩ := hfair n fun m hm =>
      .inl ((haltEnabled_iff _).2 ⟨hlive m hm, (hkept m hm).stopRequested⟩)
    have hafter := (hkept m hm).after_step (r.head_ne (hturns m hm)) (r.steps m)
    have hm' : n ≤ m + 1 := Nat.le_succ_of_le hm
    obtain hended | hspent :=
      rx_moves_ends_or_spends (r.turn_is_next m) (hkept m hm).stopRequested hmoves (r.steps m)
    · have hsame := ReaderUntouched.of_sameBlock (r.supplied m).1
      exact hnever (m + 1) hm' (hsame.rxLive_eq.trans hended)
    · have hless : Stopping (r.after m).STOP_BUDGET (r.before (m + 1)) :=
        Stopping.of_supplied (r.supplied m) ⟨hafter.stopRequested, Nat.le_refl _⟩
      obtain ⟨k, hk, hended⟩ := ih _ (Nat.lt_of_lt_of_le hspent (hkept m hm).withinBudget) hless
        fun k hk => hturns k (hm'.trans hk)
      exact hnever k (hm'.trans hk) hended

/-! ### The host agent in a fair run (rule R211) -/

/-- Only the host agent's turn takes a request. -/
theorem hostPort_of_fetch {s : State} (hhead : s.schedule.head? ≠ some .host) :
    (fetch s).2.hostPort = s.hostPort := by
  unfold fetch
  cases hturns : s.schedule with
  | nil => rfl
  | cons turn turns =>
    cases turn with
    | rx =>
      simp only [agentOperation]
      split
      · rfl
      · split <;> rfl
    | halt =>
      simp only [agentOperation]
      split <;> rfl
    | host => exact absurd (congrArg List.head? hturns) hhead
    | blockReset => rfl

theorem hostPort_of_step {s t : State} (hhead : s.schedule.head? ≠ some .host) (hstep : step s = .next t) :
    t.hostPort = s.hostPort := by
  obtain ⟨-, rfl⟩ | ⟨i, -, hexec⟩ := step_cases hstep
  · exact hostPort_of_fetch hhead
  · exact (exec_effect hexec).ports_eq.2.trans (hostPort_of_fetch hhead)

/-- The host agent's turn takes the request at the head of its port and hands back one result. -/
theorem host_turn_serves {s t : State} {req : HostReq} {reqs : List HostReq}
    (hhead : s.schedule.head? = some .host) (hport : s.hostPort = req :: reqs) (hstep : step s = .next t) :
    t.hostPort = reqs ∧ ∃ result, t.hostOut = s.hostOut ++ [result] := by
  obtain ⟨turns, hturns⟩ := List.head?_eq_some_iff.1 hhead
  rw [step_host_of_request hturns hport] at hstep
  have heffect := exec_effect hstep
  exact ⟨heffect.ports_eq.2, heffect.exists_result_of_hostOp (hostOp_hostReqInstr req)⟩

/-- A fair host agent has a turn while requests wait, with those requests still at its port. -/
theorem Run.exists_host_turn (r : Run) (hfair : r.WeaklyFairTo .host) {n : Nat}
    (hwaits : (r.before n).hostPort ≠ []) :
    ∃ m, n ≤ m ∧ r.turn m = .host ∧ (r.before n).hostPort <+: (r.before m).hostPort := by
  by_contra! hnever
  have hkept : ∀ m, n ≤ m → (r.before n).hostPort <+: (r.before m).hostPort := by
    refine r.keeps (P := fun s => (r.before n).hostPort <+: s.hostPort) (fun m hm h => ?_)
      (fun s t hsupplied h => ?_) List.prefix_rfl
    · have hturn : r.turn m ≠ .host := fun hturn => hnever m hm hturn h
      rw [hostPort_of_step (r.head_ne hturn) (r.steps m)]
      exact h
    · obtain ⟨-, -, hprefix, -⟩ := hsupplied
      exact h.trans hprefix
  obtain ⟨m, hm, hturn, -⟩ := hfair n fun m hm => (hkept m hm).ne_nil hwaits
  exact hnever m hm hturn (hkept m hm)

/-- A fair host agent serves the request at the head of its port, and the requests behind it come to the head. -/
theorem Run.head_request_served (r : Run) (hfair : r.WeaklyFairTo .host) {n : Nat} {req : HostReq}
    {reqs : List HostReq} (hport : (r.before n).hostPort = req :: reqs) :
    ∃ m result, n ≤ m ∧ r.turn m = .host ∧ (r.before m).hostPort.head? = some req ∧
      (r.after m).hostOut = (r.before m).hostOut ++ [result] ∧ reqs <+: (r.before (m + 1)).hostPort := by
  obtain ⟨m, hm, hturn, more, hmore⟩ := r.exists_host_turn hfair (hport ▸ List.cons_ne_nil req reqs)
  rw [hport, List.cons_append] at hmore
  obtain ⟨hrest, result, hresult⟩ := host_turn_serves (hturn ▸ r.turn_is_next m) hmore.symm (r.steps m)
  obtain ⟨-, -, hprefix, -⟩ := r.supplied m
  refine ⟨m, result, hm, hturn, by rw [← hmore, List.head?_cons], hresult, ?_⟩
  exact (List.prefix_append reqs more).trans (hrest ▸ hprefix)

end Sys2Proof.Machine

open Sys2Proof Sys2Proof.Machine

/-- Settles O57: a step leaves a reader that is not live untouched, and so does a run. -/
theorem onlyBlockResetRevivesReader : Obligations.OnlyBlockResetRevivesReader := by
  unfold Obligations.OnlyBlockResetRevivesReader
  intro n s t hlive hturns hrun
  obtain ⟨huntouched, hport⟩ :=
    run_keeps (fun _ _ => AtRestSince.after_step hlive) hturns (AtRestSince.refl s) hrun
  exact ⟨huntouched.rxLive_eq.trans hlive, huntouched.dead, huntouched.error, huntouched.stopped, hport,
    huntouched.recording, huntouched.buffer, huntouched.nothingPushed⟩

/-- Settles O58: each step of the run spends on the budget what it takes from the port. -/
theorem bytesAfterStopAreBounded : Obligations.BytesAfterStopAreBounded := by
  unfold Obligations.BytesAfterStopAreBounded
  intro n s t hreq hturns hrun
  have hpaid : PaidSince s t := run_keeps (fun _ _ => PaidSince.after_step) hturns ⟨hreq, rfl⟩ hrun
  exact hpaid.balance.le

/-- Settles O59, by induction on the budget that is left: the budget is the variant of the stopping agent's steps. -/
theorem fairRunsHaltAfterStop : Obligations.FairRunsHaltAfterStop := by
  unfold Obligations.FairRunsHaltAfterStop
  intro r n hfair hreq hturns
  obtain ⟨m, hm, hended⟩ := r.rx_ends_within_budget hfair ⟨hreq, Nat.le_refl _⟩ hturns
  exact ⟨m, hm, (rxLive_eq_false_iff _).1 hended⟩

/-- Settles O60, by induction on the requests ahead: each host turn takes the first of them. -/
theorem fairRunsServeEveryRequest : Obligations.FairRunsServeEveryRequest := by
  unfold Obligations.FairRunsServeEveryRequest
  intro r n ahead behind req hfair hport
  induction ahead generalizing n behind with
  | nil =>
    obtain ⟨m, result, hm, hturn, hhead, hresult, -⟩ := r.head_request_served hfair hport
    exact ⟨m, result, hm, hturn, hhead, hresult⟩
  | cons first ahead ih =>
    obtain ⟨m, -, hm, -, -, -, more, hmore⟩ := r.head_request_served hfair hport
    obtain ⟨k, result, hk, hserved⟩ := ih (m + 1) (behind ++ more) (by simp [← hmore])
    exact ⟨k, result, (Nat.le_succ_of_le hm).trans hk, hserved⟩

/-- Settles O30: the first REFRESH empties the channel, and only RX_STOP_EMIT fills it. -/
theorem secondRefreshIsEmpty : Obligations.SecondRefreshIsEmpty := by
  unfold Obligations.SecondRefreshIsEmpty
  intro s between hpush
  obtain ⟨t, hrefresh, hempty⟩ := exec_refresh_empties_mailbox s
  have hkeeps : ∀ i ∈ between, ∀ v w, v.MBOX = none → exec i v = .next w → w.MBOX = none :=
    fun i hi v w hv hexec => (exec_effect hexec).mailbox_stays_empty (fun h => hpush (h ▸ hi)) hv
  exact ⟨t, hrefresh, fun u hrun =>
    execRefresh_of_none (runOps_keeps (P := fun v => v.MBOX = none) hkeeps hempty hrun)⟩

/-- Settles O49: a host operation is enabled in every state, and its effect is one result and no write to the RX
agent's elements. -/
theorem hostOperationsAlwaysComplete : Obligations.HostOperationsAlwaysComplete := by
  unfold Obligations.HostOperationsAlwaysComplete
  intro i s hi
  obtain ⟨t, hexec⟩ := exists_exec_eq_next_of_enabled (enabled_of_hostOp hi s)
  obtain ⟨r, hresult⟩ := (exec_effect hexec).exists_result_of_hostOp hi
  have hreader := (exec_effect hexec).readerUntouched_of_hostOp hi
  exact ⟨t, r, hexec, hresult, hreader.recording, hreader.buffer, hreader.dead, hreader.error, hreader.stopped⟩

/-- Settles O56, turn by turn. -/
theorem blockNeverStops : Obligations.BlockNeverStops :=
  exists_step_eq_next

/-- Settles O44: the value of `ST` is the next free value. -/
theorem blockResetRestoresResetValues : Obligations.BlockResetRestoresResetValues :=
  fun s => ⟨Config.initStatus s.draws, rfl⟩
end
